-- ==== Sys2Proof/Word.lean ====
section
/-!
DEFINITION. The two word types of the engine (00_scope.md R9): `u8` and `u16`. Addition and subtraction on them are
those of `BitVec`, which wrap: `a + 1` on a `Word` is the spec's `wrap16(a + 1)`.
-/

namespace Sys2Proof

/-- `u8`, an 8-bit value (R9): a memory byte, A, X, Y, an opcode. -/
abbrev Byte := BitVec 8

/-- `u16`, a 16-bit value (R9): PC, SP, an address. -/
abbrev Word := BitVec 16

end Sys2Proof
end

