-- ==== Sys2Proof/Syntax.lean ====
section
/-!
DEFINITION. The instructions, whole: one constructor per row of spec/opcode_table.json, in the table's order. An
instruction carries its operand field, already assembled (30_encoding.md R65). Every other opcode byte is no
instruction (R68).
-/

namespace Sys2Proof

/-- The three instructions of the closed dispatch table (30_encoding.md R66). -/
inductive Instr where
  /-- JSR, opcode 0x20, format ABS16: the 16-bit target address (42_subroutine.md R120). -/
  | jsr (target : Word)
  /-- LDA, opcode 0xA5, format ZP8: the zero-page address (41_load.md R112). -/
  | ldaZp (zp : Byte)
  /-- LDA, opcode 0xA9, format IMM8: the operand value (41_load.md R111). -/
  | ldaImm (imm : Byte)
deriving DecidableEq, Repr

end Sys2Proof
end

