-- ==== Sys2Proof/WellFormed.lean ====
section
/-!
DEFINITION. What is well formed. An instruction always is: 30_encoding.md R69 gives operand bytes no reserved values,
and a field of the wrong width cannot be written in `Instr`. What can be ill formed is a string of bytes offered as one
instruction: its opcode may be unhandled (R68) and its length may not be the one the opcode fixes (R61).
-/

namespace Sys2Proof

/-- 30_encoding.md R69: "Operand bytes have no reserved values: every `imm8`, every `zp8` and every `hi ++ lo` is
legal." -/
def Instr.wellFormed : Instr → Bool
  | .jsr _ => true
  | .ldaZp _ => true
  | .ldaImm _ => true

/-- The length in bytes of an instruction (30_encoding.md R61). -/
def Instr.length : Instr → Nat
  | .jsr _ => 3
  | .ldaZp _ => 2
  | .ldaImm _ => 2

/-- The length table of 30_encoding.md R61, by opcode; `none` for a byte that is no instruction's opcode. -/
def opcodeLength (op : Byte) : Option Nat :=
  if op = 0xA9 then some 2
  else if op = 0xA5 then some 2
  else if op = 0x20 then some 3
  else none

/-- The bytes are exactly one instruction: an opcode of the table and as many bytes as it fixes (30_encoding.md R60,
R61). -/
def wellFormedBytes : List Byte → Bool
  | [] => false
  | op :: operands => opcodeLength op == some (operands.length + 1)

end Sys2Proof
end

