-- ==== Sys2Proof/Decode.lean ====
section
/-!
DEFINITION. The decoder and, after it, the encoder (30_encoding.md), with the byte-order helpers both use.

`decodeOpcode` is the dispatch table: the byte list decoder `decode` and the machine's fetch
(Sys2Proof/Machine/Loop.lean) both look an opcode up there, so an opcode has one meaning in the model.
-/

namespace Sys2Proof

/-- `lo8(w) = w[7:0]` (00_scope.md R9). -/
def lo8 (w : Word) : Byte := w.extractLsb' 0 8

/-- `hi8(w) = w[15:8]` (00_scope.md R9). -/
def hi8 (w : Word) : Byte := w.extractLsb' 8 8

/-- `hi ++ lo`, `hi` in the upper bits (00_scope.md R8); the word whose bytes, low first, are `lo`, `hi` (20_memory.md
R45). -/
def wordOf (hi lo : Byte) : Word := hi ++ lo

/-- A row of the dispatch table as a decoder reads it: how many operand bytes follow the opcode, and the instruction
they make (30_encoding.md R61, R65). -/
inductive Entry where
  /-- Formats IMM8 and ZP8 (R62, R63): one operand byte. -/
  | oneByte (mk : Byte → Instr)
  /-- Format ABS16 (R64): two operand bytes, the low one first. -/
  | twoBytes (mk : Word → Instr)

/-- `decode(op)` of 30_encoding.md R67, all eight bits matched; `none` is `UNHANDLED(op)` (R68). -/
def decodeOpcode (op : Byte) : Option Entry :=
  if op = 0xA9 then some (.oneByte .ldaImm)
  else if op = 0xA5 then some (.oneByte .ldaZp)
  else if op = 0x20 then some (.twoBytes .jsr)
  else none

/-- Why a list of bytes does not begin with an instruction. The machine itself meets the first reason only, since its
memory never ends (log entry 8). -/
inductive DecodeError where
  /-- The opcode is not in the table (30_encoding.md R68). -/
  | unhandled (op : Byte)
  /-- The opcode is in the table and the list ends before its operand bytes do. -/
  | truncated (op : Byte)
  /-- There is no opcode byte. -/
  | empty
deriving DecidableEq, Repr

/-- The operand bytes that a row says follow its opcode, taken from the front of the list (30_encoding.md R61, R65). -/
def decodeOperands (op : Byte) : Entry → List Byte → Except DecodeError (Instr × List Byte)
  | .oneByte mk, v :: rest => .ok (mk v, rest)
  | .twoBytes mk, lo :: hi :: rest => .ok (mk (wordOf hi lo), rest)
  | .oneByte _, [] => .error (.truncated op)
  | .twoBytes _, [] => .error (.truncated op)
  | .twoBytes _, [_] => .error (.truncated op)

/-- The instruction a list of bytes, first byte first, begins with, and the bytes after it (30_encoding.md R60 to R65).
Total on any bytes. -/
def decode : List Byte → Except DecodeError (Instr × List Byte)
  | [] => .error .empty
  | op :: rest =>
    match decodeOpcode op with
    | none => .error (.unhandled op)
    | some entry => decodeOperands op entry rest

/-- The bytes of an instruction, first byte first (30_encoding.md R62, R63, R64). -/
def encode : Instr → List Byte
  | .ldaImm imm => [0xA9, imm]
  | .ldaZp zp => [0xA5, zp]
  | .jsr target => [0x20, lo8 target, hi8 target]

/-- The number whose bits are those of a list of bytes, the first byte lowest: opcode_table.json's numbering of an
instruction's bits. -/
def tableNumber : List Byte → Nat
  | [] => 0
  | v :: rest => v.toNat + 256 * tableNumber rest

/-- The bytes of an instruction whose bits are numbered as opcode_table.json numbers them (byte k of the instruction is
bits 8k + 7 down to 8k), up to the longest instruction; bits from `nbits` on are 0. -/
def tableBytes (nbits w : Nat) : List Byte :=
  let v := w % 2 ^ nbits
  [BitVec.ofNat 8 v, BitVec.ofNat 8 (v / 256), BitVec.ofNat 8 (v / 65536)]

/-- What the decoder reads from an instruction given by its table bits; `none` where it refuses. -/
def decodeTableWord (nbits w : Nat) : Option Instr :=
  match decode (tableBytes nbits w) with
  | .ok (i, _) => some i
  | .error _ => none

end Sys2Proof
end

