-- ==== Sys2Proof/Config.lean ====
section
/-!
DEFINITION. The engine's fixed parameters that the state's definition needs (00_scope.md R6). None is configurable,
and there is no free value: R17 says that nothing in the engine is undefined.
-/

namespace Sys2Proof

/-- Memory size: 65536 bytes, addresses 0 to 65535 (R6, 20_memory.md R40). -/
def Config.memorySize : Nat := 65536

/-- The value PC takes at reset (10_state.md R35); it is not dereferenced (70_reset_and_hazards.md R153). -/
def Config.resetPc : Word := 0xFFFC

/-- The value SP takes at reset (10_state.md R35, 20_memory.md R50). -/
def Config.resetSp : Word := 0x0100

end Sys2Proof
end

