-- ==== Sys2Proof/Machine/Memory.lean ====
section
/-!
DEFINITION. The memory: 65536 bytes (20_memory.md R40), held as the list of its non-zero bytes in rising address order,
so that equal memories are equal data (log entry 6).
-/

namespace Sys2Proof.Machine

/-- `Mem` (20_memory.md R40): (address, byte) pairs in the canonical form `Memory.wf`. -/
abbrev Memory := List Host.Cell

/-- What an address that is not listed reads as: construction and reset leave 0x00 at every address (10_state.md R34,
R35; 20_memory.md R59). -/
def Memory.unlisted : Byte := 0x00

/-- The cells lie at rising addresses, none below `lo`, inside the memory, and none holds the unlisted byte. -/
def Memory.wfFrom : Nat → Memory → Bool
  | _, [] => true
  | lo, (k, v) :: rest =>
    decide (lo ≤ k) && decide (k < Config.memorySize) && decide (v ≠ Memory.unlisted) && Memory.wfFrom (k + 1) rest

/-- The canonical form of a memory. -/
def Memory.wf (m : Memory) : Bool := Memory.wfFrom 0 m

/-- The byte listed at `k`, or the unlisted byte. -/
def Memory.lookup : Memory → Nat → Byte
  | [], _ => Memory.unlisted
  | (k', v) :: rest, k => if k' = k then v else Memory.lookup rest k

/-- The memory with byte `v` at `k`; a byte equal to the unlisted one leaves no cell. -/
def Memory.insert : Memory → Nat → Byte → Memory
  | [], k, v => if v = Memory.unlisted then [] else [(k, v)]
  | (k', v') :: rest, k, v =>
    if k < k' then if v = Memory.unlisted then (k', v') :: rest else (k, v) :: (k', v') :: rest
    else if k = k' then if v = Memory.unlisted then rest else (k, v) :: rest
    else (k', v') :: Memory.insert rest k v

/-- `MemRead(addr, 1)` on the memory (20_memory.md R41). The address is a `u16`, so it is in range (R43). -/
def Memory.read (m : Memory) (addr : Word) : Byte := Memory.lookup m addr.toNat

/-- `MemWrite(addr, 1, v)` on the memory (20_memory.md R42). -/
def Memory.write (m : Memory) (addr : Word) (v : Byte) : Memory := Memory.insert m addr.toNat v

/-- `initialize()`: "sets every byte to 0" (20_memory.md R59), whatever was there. -/
def Memory.initialize (_m : Memory) : Memory := []

end Sys2Proof.Machine
end

