-- ==== Sys2Proof/Machine/State.lean ====
section
/-!
DEFINITION. The state of the machine, as plain data (10_state.md R20, R31, R32), its values at construction and after
reset, and the reasons a step can stop.
-/

namespace Sys2Proof.Machine

/-- All the state the spec gives the machine. A flag is `true` where the spec writes 1 (log entry 7). No field aliases
another (10_state.md R21). -/
structure State where
  /-- PC, "names the next byte to fetch" (10_state.md R24). -/
  pc : Word
  /-- SP, an absolute address (10_state.md R25). -/
  sp : Word
  /-- A, the accumulator (10_state.md R22). -/
  a : Byte
  /-- X (10_state.md R22). -/
  x : Byte
  /-- Y (10_state.md R22). -/
  y : Byte
  /-- C (10_state.md R28). -/
  flagC : Bool
  /-- Z, zero (10_state.md R28). -/
  flagZ : Bool
  /-- I, interrupt-disable; nothing in the engine reads it (10_state.md R29). -/
  flagI : Bool
  /-- D; it selects nothing (10_state.md R29). -/
  flagD : Bool
  /-- B (10_state.md R28). -/
  flagB : Bool
  /-- V (10_state.md R28). -/
  flagV : Bool
  /-- N, negative (10_state.md R28). -/
  flagN : Bool
  /-- Mem (10_state.md R31). -/
  mem : Memory
  /-- The remaining cycle budget of the execute call in progress, an unbounded natural number (10_state.md R32,
  00_scope.md R7). Between calls it means nothing: the next call overwrites it (log entries 1, 9). -/
  budget : Nat
deriving DecidableEq, Repr

/-- A newly created CPU and a newly created memory (10_state.md R34); no execute call is in progress (log entry 1). -/
def State.constructed : State where
  pc := 0x0000
  sp := 0x0000
  a := 0x00
  x := 0x00
  y := 0x00
  flagC := false
  flagZ := false
  flagI := false
  flagD := false
  flagB := false
  flagV := false
  flagN := false
  mem := []
  budget := 0

/-- The machine right after reset (10_state.md R35, 70_reset_and_hazards.md R150); no execute call is in progress (log
entry 1). -/
def State.reset : State where
  pc := Config.resetPc
  sp := Config.resetSp
  a := 0x00
  x := 0x00
  y := 0x00
  flagC := false
  flagZ := false
  flagI := true
  flagD := false
  flagB := false
  flagV := false
  flagN := false
  mem := []
  budget := 0

/-- The two terminal causes of 60_exceptions.md R135, the complete list, each with the CPU state, memory and budget the
stop leaves: the spec's `Stop(outcome, cpu', Mem', budget')` (40_engine.md R95, log entry 2). They are the ends of an
execute call, not errors (R96), and not traps (60_exceptions.md R138). -/
inductive Fault where
  /-- Raised by the execute loop's step 1 when the budget is 0 (40_engine.md R92). The spec's own outcome: safe. -/
  | exhausted (final : State)
  /-- Raised by the execute loop's step 4 for an opcode that is not in the table (60_exceptions.md R130, R131). The
  spec's own outcome: safe. -/
  | unhandled (op : Byte) (final : State)
deriving DecidableEq, Repr

/-- Instructions without a meaning. Nothing raises it: every instruction of the table has its meaning. -/
inductive Refusal where
  /-- Raised by `exec`'s arm of an instruction that is not modelled; no arm does. It would be safe. -/
  | notModelled (mnemonic : String)
deriving DecidableEq, Repr

end Sys2Proof.Machine
end

