-- ==== Sys2Proof/Machine/Ops.lean ====
section
/-!
DEFINITION. The named operations over registers, memory and the budget: one update per written field, the memory
primitives (20_memory.md R41, R42, R44), charging (40_engine.md R80), the fetch primitives (R82 to R84) and the two
stops (60_exceptions.md R135). The numbers charged are those of R80; the source's literals are unaudited (log entry 5).
-/

namespace Sys2Proof.Machine

/-- `PC <- v`. -/
def State.setPc (v : Word) (s : State) : State := { s with pc := v }

/-- `SP <- v`. -/
def State.setSp (v : Word) (s : State) : State := { s with sp := v }

/-- `A <- v`. -/
def State.setA (v : Byte) (s : State) : State := { s with a := v }

/-- `Z <- v`. -/
def State.setFlagZ (v : Bool) (s : State) : State := { s with flagZ := v }

/-- `N <- v`. -/
def State.setFlagN (v : Bool) (s : State) : State := { s with flagN := v }

/-- The state over another memory. -/
def State.setMem (m : Memory) (s : State) : State := { s with mem := m }

/-- `budget <- n`. -/
def State.setBudget (n : Nat) (s : State) : State := { s with budget := n }

/-- `charge(n)`: "unsigned saturating subtraction" (40_engine.md R80); subtraction on `Nat` saturates at 0. -/
def charge (n : Nat) (s : State) : State := s.setBudget (s.budget - n)

/-- `MemRead(addr, 1)` (20_memory.md R41). -/
def memRead (addr : Word) (s : State) : Byte := Memory.read s.mem addr

/-- `MemWrite(addr, 1, v)` (20_memory.md R42). -/
def memWrite (addr : Word) (v : Byte) (s : State) : State := s.setMem (Memory.write s.mem addr v)

/-- `MemWrite(addr, 2, w)`, the source's `write_word` (20_memory.md R44): the low byte at `addr`, then the high byte at
`wrap16(addr + 1)`, then 2 cycles. -/
def writeWord (addr w : Word) (s : State) : State :=
  charge 2 (memWrite (addr + 1) (hi8 w) (memWrite addr (lo8 w) s))

/-- `fetch_byte()` (40_engine.md R82): the byte at PC; PC advances by 1, wrapping; 1 cycle. -/
def fetchByte (s : State) : Byte × State :=
  (memRead s.pc s, charge 1 (s.setPc (s.pc + 1)))

/-- `fetch_word()` (40_engine.md R83): two `fetch_byte()`, the low byte first. -/
def fetchWord (s : State) : Word × State :=
  let lo := fetchByte s
  let hi := fetchByte lo.2
  (wordOf hi.1 lo.1, hi.2)

/-- `zext_16(zp)`, an address in 0x0000 to 0x00FF (00_scope.md R9, 30_encoding.md R65). -/
def zeroPageAddr (zp : Byte) : Word := zp.setWidth 16

/-- `read_byte(zp)` (40_engine.md R84): the byte at the zero-page address; PC unchanged; 1 cycle. -/
def readByte (zp : Byte) (s : State) : Byte × State :=
  (memRead (zeroPageAddr zp) s, charge 1 s)

/-- `raise UnhandledOpcode(op)`, the engine's only exception, on the state after the opcode fetch (60_exceptions.md R130).
It saves no state, changes no mode and takes no vector (R138), and there is no return from it (R139): the call ends with
the state as it is (R131). -/
def raiseUnhandled (op : Byte) (s : State) : Host.Outcome State Fault Refusal := .fault (.unhandled op s)

/-- `stop Exhausted` (40_engine.md R92). -/
def stopExhausted (s : State) : Host.Outcome State Fault Refusal := .fault (.exhausted s)

end Sys2Proof.Machine
end

