-- ==== Sys2Proof/Machine/Flags.lean ====
section
/-!
DEFINITION. The one flag computation of the engine (40_engine.md R86).
-/

namespace Sys2Proof.Machine

/-- "z = 1 iff accumulator == 0" (R86). -/
def loadZ (a : Byte) : Bool := a == 0x00

/-- "n = 1 iff bit 7 of accumulator is set" (R86). -/
def loadN (a : Byte) : Bool := a.getLsbD 7

/-- `compute_load_flags()` (R86): Z and N from A's current value; no cycle, no other flag. -/
def computeLoadFlags (s : State) : State := (s.setFlagZ (loadZ s.a)).setFlagN (loadN s.a)

end Sys2Proof.Machine
end

