-- ==== Sys2Proof/Machine/Operands.lean ====
section
/-!
DEFINITION. The four addressing modes of 40_engine.md R85. A mode's operand bytes are fetched, and charged, before the
instruction's meaning runs (Sys2Proof/Machine/Loop.lean, log entry 4): what stands here is what the mode does with them.
-/

namespace Sys2Proof.Machine

/-- Immediate (R85, 30_encoding.md R65): the fetched byte is the operand. -/
def immediateOperand (imm : Byte) (s : State) : Byte × State := (imm, s)

/-- Zero-page (R85): `operand <- read_byte(zp)`. -/
def zeroPageOperand (zp : Byte) (s : State) : Byte × State := readByte zp s

/-- Absolute target (R85, 30_encoding.md R65): the fetched word is the new PC, not the address of an operand. -/
def absoluteTarget (target : Word) (s : State) : Word × State := (target, s)

/-- The address of the stack word: the raw SP, "interpreted as an absolute address, not page-relative" (R85,
42_subroutine.md R122). -/
def stackAddr (s : State) : Word := s.sp

/-- Stack word (R85): `MemWrite(SP, 2, value)`; SP itself is left to the instruction. -/
def pushWord (value : Word) (s : State) : State := writeWord (stackAddr s) value s

end Sys2Proof.Machine
end

