-- ==== Sys2Proof/Machine/Load.lean ====
section
/-!
DEFINITION. The load-accumulator instructions (41_load.md). A meaning runs after the instruction's bytes have been
fetched: PC is the post-fetch pc and each fetched byte has been charged (log entry 4).
-/

namespace Sys2Proof.Machine

/-- What both loads do with their operand (41_load.md R110): `A <- v; compute_load_flags()`. -/
def loadAccumulator (v : Byte) (s : State) : State := computeLoadFlags (s.setA v)

/-- LDA zero-page, 0xA5 (41_load.md R112). -/
def execLdaZp (zp : Byte) (s : State) : Host.Outcome State Fault Refusal :=
  let operand := zeroPageOperand zp s
  .next (loadAccumulator operand.1 operand.2)

/-- LDA immediate, 0xA9 (41_load.md R111). -/
def execLdaImm (imm : Byte) (s : State) : Host.Outcome State Fault Refusal :=
  let operand := immediateOperand imm s
  .next (loadAccumulator operand.1 operand.2)

end Sys2Proof.Machine
end

