-- ==== Sys2Proof/Machine/Subroutine.lean ====
section
/-!
DEFINITION. Jump-to-subroutine (42_subroutine.md). The meaning runs after the instruction's bytes have been fetched: PC
is the post-fetch pc and each fetched byte has been charged (log entry 4).
-/

namespace Sys2Proof.Machine

/-- The value JSR stores: the post-fetch pc minus 1, wrapping (42_subroutine.md R121). -/
def returnAddress (s : State) : Word := s.pc - 1

/-- JSR, 0x20 (42_subroutine.md R120), in the order of its pseudocode: store the return address at SP, `PC <- target`,
`SP <- wrap16(SP + 2)`, one more cycle. -/
def execJsr (target : Word) (s : State) : Host.Outcome State Fault Refusal :=
  let dest := absoluteTarget target s
  let stored := pushWord (returnAddress dest.2) dest.2
  let jumped := stored.setPc dest.1
  .next (charge 1 (jumped.setSp (jumped.sp + 2)))

end Sys2Proof.Machine
end

