-- ==== Sys2Proof/Machine/Dispatch.lean ====
section
/-!
DEFINITION. The handlers of the closed dispatch table (40_engine.md R87, R88 step 3), one arm per instruction.
-/

namespace Sys2Proof.Machine

/-- The effect of an instruction on the state its fetch left. -/
def exec (i : Instr) (s : State) : Host.Outcome State Fault Refusal :=
  match i with
  | .jsr target => Sys2Proof.Machine.execJsr target s
  | .ldaZp zp => Sys2Proof.Machine.execLdaZp zp s
  | .ldaImm imm => Sys2Proof.Machine.execLdaImm imm s

end Sys2Proof.Machine
end

