-- ==== Sys2Proof/Machine/Loop.lean ====
section
/-!
DEFINITION. One iteration of the execute loop (40_engine.md R88, R95) with the fetch of an instruction's bytes, and how
an instruction is placed for the next iteration to run it.
-/

namespace Sys2Proof.Machine

/-- Fetches the operand bytes that the table's row says follow the opcode (30_encoding.md R61), each through `fetch_byte`,
and assembles the instruction. -/
def fetchOperands (entry : Entry) (s : State) : Instr × State :=
  match entry with
  | .oneByte mk =>
    let operand := fetchByte s
    (mk operand.1, operand.2)
  | .twoBytes mk =>
    let operand := fetchWord s
    (mk operand.1, operand.2)

/-- One iteration of the loop, its checks in the order of 60_exceptions.md R137: the budget (step 1), the opcode fetch
(step 2), then dispatch (step 3) or the unhandled-opcode stop (step 4). The budget is tested nowhere else (40_engine.md
R89). -/
def loopIteration (s : State) : Host.Outcome State Fault Refusal :=
  if s.budget = 0 then stopExhausted s
  else
    let op := fetchByte s
    match decodeOpcode op.1 with
    | none => raiseUnhandled op.1 op.2
    | some entry =>
      let instr := fetchOperands entry op.2
      exec instr.1 instr.2

/-- The bytes written at `addr` and the addresses after it, wrapping. -/
def placeBytes : List Byte → Word → State → State
  | [], _, s => s
  | v :: rest, addr, s => placeBytes rest (addr + 1) (memWrite addr v s)

/-- The budget with which a placed instruction is run when no execute call is in progress: the greatest cost of
70_reset_and_hazards.md R160 (log entry 3). -/
def placedBudget : Nat := 6

/-- The instruction's bytes stored at PC, and an execute call in progress so that the loop fetches them: a budget of 0
would stop it before the fetch (40_engine.md R89). Any other budget stays (log entry 3). -/
def placeInstr (nbits w : Nat) (s : State) : State :=
  let placed := placeBytes (tableBytes nbits w) s.pc s
  if placed.budget = 0 then placed.setBudget placedBudget else placed

end Sys2Proof.Machine
end

