-- ==== Sys2Proof/Machine/Step.lean ====
section
/-!
DEFINITION. The step of the machine: one iteration of the execute loop (40_engine.md R95).
-/

namespace Sys2Proof.Machine

/-- `step(cpu, Mem, budget)` of 40_engine.md R95: `Continue` is a next state, `Stop` is a fault that carries the outcome
and the state it leaves (log entry 2). -/
def step (s : State) : Host.Outcome State Fault Refusal := loopIteration s

/-- The state with an instruction, given by its table bits, placed where the next step fetches it (log entry 3). -/
def State.withFetchWord (s : State) (nbits w : Nat) : State := placeInstr nbits w s

end Sys2Proof.Machine
end

