-- ==== Sys2Proof/Machine/HostOps.lean ====
section
/-!
DEFINITION. What the host can do to the engine, between execute calls (40_engine.md §6: R100 to R109). Each operation is
a function on `State`; no step of the machine calls one (log entry 9). Creating a CPU and a memory (R101, R102) is
`State.constructed`. Two engines are two `State` values, which share nothing (R108).
-/

namespace Sys2Proof.Machine

/-- `reset(memory)`, the transition of 70_reset_and_hazards.md R150: every register and flag, and every byte of memory,
from any state; it charges nothing. -/
def hostReset (s : State) : State :=
  { s with
    pc := Config.resetPc
    sp := Config.resetSp
    a := 0x00
    x := 0x00
    y := 0x00
    flagC := false
    flagZ := false
    flagI := true
    flagD := false
    flagB := false
    flagV := false
    flagN := false
    mem := Memory.initialize s.mem }

/-- `set_pc(v)` (40_engine.md R105). -/
def hostSetPc (v : Word) (s : State) : State := s.setPc v

/-- `set_a(v)` (40_engine.md R105): it does not recompute Z or N. -/
def hostSetA (v : Byte) (s : State) : State := s.setA v

/-- The host's read of one byte (40_engine.md R106, 20_memory.md R58). -/
def hostReadByte (addr : Word) (s : State) : Byte := memRead addr s

/-- The host's write of one byte (40_engine.md R106, 20_memory.md R58). -/
def hostWriteByte (addr : Word) (v : Byte) (s : State) : State := memWrite addr v s

/-- One getter per register and flag (40_engine.md R104). -/
inductive Getter where
  | pc | sp | a | x | y | c | z | i | d | b | v | n
deriving DecidableEq, Repr

/-- What a getter answers (40_engine.md R104), as a number: a flag is 0 or 1 (10_state.md R27). -/
def hostGet (g : Getter) (s : State) : Nat :=
  match g with
  | .pc => s.pc.toNat
  | .sp => s.sp.toNat
  | .a => s.a.toNat
  | .x => s.x.toNat
  | .y => s.y.toNat
  | .c => s.flagC.toNat
  | .z => s.flagZ.toNat
  | .i => s.flagI.toNat
  | .d => s.flagD.toNat
  | .b => s.flagB.toNat
  | .v => s.flagV.toNat
  | .n => s.flagN.toNat

/-- Why an execute call returned (40_engine.md R94). -/
inductive Terminal where
  | exhausted
  | unhandled (op : Byte)
deriving DecidableEq, Repr

/-- What an execute call returns (40_engine.md R94), with the state it leaves, which the host reads through the getters. -/
structure ExecuteResult where
  outcome : Terminal
  remaining : Nat
  final : State
deriving DecidableEq, Repr

/-- At most `fuel` iterations of the loop (40_engine.md R88); `none` where they did not end it. `execute` gives it enough
(log entry 10). -/
def runLoop : Nat → State → Option ExecuteResult
  | 0, _ => none
  | fuel + 1, s =>
    match step s with
    | .next t => runLoop fuel t
    | .fault (.exhausted t) => some ⟨.exhausted, t.budget, t⟩
    | .fault (.unhandled op t) => some ⟨.unhandled op, t.budget, t⟩
    | .refused _ => none

/-- `execute(cycle_budget, memory)` (40_engine.md R88): the budget starts at the argument, whatever it was, and there are
at most `cycle_budget + 1` budget tests (R93). -/
def execute (cycleBudget : Nat) (s : State) : Option ExecuteResult :=
  runLoop (cycleBudget + 1) (s.setBudget cycleBudget)

/-- The host's interactions with an engine that exists (40_engine.md R109). -/
inductive HostOp where
  | reset
  | setPc (v : Word)
  | setA (v : Byte)
  | get (g : Getter)
  | readByte (addr : Word)
  | writeByte (addr : Word) (v : Byte)
  | execute (cycleBudget : Nat)
deriving DecidableEq, Repr

/-- The engine after a host interaction (40_engine.md R109): reading changes nothing. -/
def hostApply (op : HostOp) (s : State) : State :=
  match op with
  | .reset => hostReset s
  | .setPc v => hostSetPc v s
  | .setA v => hostSetA v s
  | .get _ => s
  | .readByte _ => s
  | .writeByte addr v => hostWriteByte addr v s
  | .execute cycleBudget =>
    match execute cycleBudget s with
    | some r => r.final
    | none => s

end Sys2Proof.Machine
end

