-- ==== Sys2Proof/Safety.lean ====
section
/-!
DEFINITION. What a safe run is, in the terms the statements use: the invariant every step keeps, the states a host can
reach, and the part of the state no instruction reads.
-/

namespace Sys2Proof.Machine

/-- What holds in every state and every step keeps: the memory is in its canonical form. -/
abbrev Inv (s : State) : Prop := Memory.wf s.mem = true

/-- The states a host can bring about from a newly created engine (40_engine.md R109, 70_reset_and_hazards.md R154). -/
inductive Reachable : State → Prop where
  | constructed : Reachable State.constructed
  | apply (op : HostOp) (s : State) : Reachable s → Reachable (hostApply op s)

/-- What no instruction changes and the host can only clear: X and Y are 0 (10_state.md R23), C, D, B and V are 0
(R28), and SP is even (R26). -/
structure ReachableValues (s : State) : Prop where
  x : s.x = 0
  y : s.y = 0
  c : s.flagC = false
  d : s.flagD = false
  b : s.flagB = false
  v : s.flagV = false
  sp : s.sp.toNat % 2 = 0

/-- An opcode of the closed dispatch table (30_encoding.md R66). -/
abbrev KnownOpcode (op : Byte) : Prop := op = 0x20 ∨ op = 0xA5 ∨ op = 0xA9

/-- The cost of an instruction by its opcode (70_reset_and_hazards.md R160); 1 for an unhandled one, its fetch. -/
def cycleCost (op : Byte) : Nat :=
  if op = 0xA9 then 2 else if op = 0xA5 then 3 else if op = 0x20 then 6 else 1

/-- The registers and flags that no instruction reads or writes (10_state.md R23, R28). -/
structure Bystanders where
  x : Byte
  y : Byte
  flagC : Bool
  flagI : Bool
  flagD : Bool
  flagB : Bool
  flagV : Bool
deriving DecidableEq, Repr

/-- The state with those registers and flags replaced. -/
def State.withBystanders (u : Bystanders) (s : State) : State :=
  { s with
    x := u.x
    y := u.y
    flagC := u.flagC
    flagI := u.flagI
    flagD := u.flagD
    flagB := u.flagB
    flagV := u.flagV }

/-- The registers and flags that no instruction reads or writes, as a state holds them. -/
def State.bystanders (s : State) : Bystanders :=
  ⟨s.x, s.y, s.flagC, s.flagI, s.flagD, s.flagB, s.flagV⟩

/-- An outcome with every state in it, the next one or the one a stop leaves, changed by `f`. -/
def mapOutcome (f : State → State) : Host.Outcome State Fault Refusal → Host.Outcome State Fault Refusal
  | .next t => .next (f t)
  | .fault (.exhausted t) => .fault (.exhausted (f t))
  | .fault (.unhandled op t) => .fault (.unhandled op (f t))
  | .refused r => .refused r

/-- `n` bytes of memory from an address on, wrapping: byte k of an instruction is at `wrap16(PC0 + k)` (30_encoding.md
§2). -/
def bytesAt (m : Memory) (addr : Word) : Nat → List Byte
  | 0 => []
  | n + 1 => Memory.read m addr :: bytesAt m (addr + 1) n

end Sys2Proof.Machine
end

