-- ==== Sys2Proof/Certificates/Slice0/Obligations.lean ====
section
/-!
DEFINITION. The statements about the machine, from the numbered rules of spec/. A statement on `exec` speaks of the state
the fetch of the instruction's bytes left (log entry 4); a statement on `step` speaks of the state before it.
-/

open Sys2Proof Sys2Proof.Machine

/-! ### Encoding -/

/-- 30_encoding.md R62, R63, R64 and R68: one word of each format, and one unhandled byte. -/
def Obligations.DecodeReadsOneWordOfEachFormat : Prop :=
  decode [0xA9, 0x42] = .ok (.ldaImm 0x42, []) ∧
  decode [0xA5, 0x10] = .ok (.ldaZp 0x10, []) ∧
  decode [0x20, 0x34, 0x12] = .ok (.jsr 0x1234, []) ∧
  decode [0xEA, 0x42] = .error (.unhandled 0xEA)

/-- 30_encoding.md R67: the decode function on all 256 byte values, whatever operand bytes follow. -/
def Obligations.DecodeFollowsTheDispatchTable : Prop :=
  ∀ (op b1 b2 : Byte) (rest : List Byte),
    (op = 0xA9 → decode (op :: b1 :: b2 :: rest) = .ok (.ldaImm b1, b2 :: rest)) ∧
    (op = 0xA5 → decode (op :: b1 :: b2 :: rest) = .ok (.ldaZp b1, b2 :: rest)) ∧
    (op = 0x20 → decode (op :: b1 :: b2 :: rest) = .ok (.jsr (b2 ++ b1), rest)) ∧
    (¬ KnownOpcode op → decode (op :: b1 :: b2 :: rest) = .error (.unhandled op))

/-- 30_encoding.md R62 to R65: no bit of an encoding is dropped, and the bytes after it are left. -/
def Obligations.DecodeOfEncodeIsTheInstruction : Prop :=
  ∀ (i : Instr) (rest : List Byte), i.wellFormed = true → decode (encode i ++ rest) = .ok (i, rest)

/-- 30_encoding.md R62 to R65: each encoding has one spelling. -/
def Obligations.EncodeOfDecodeIsTheBytes : Prop :=
  ∀ (bytes rest : List Byte) (i : Instr), decode bytes = .ok (i, rest) → bytes = encode i ++ rest

/-- 30_encoding.md R61: the opcode alone fixes the length, and bytes decode when there are that many. That fewer do not
decode is the model's (log entry 8), and nothing here says it. -/
def Obligations.OpcodeAloneFixesTheLength : Prop :=
  (∀ (op : Byte) (tail rest : List Byte) (i : Instr), decode (op :: tail) = .ok (i, rest) →
    opcodeLength op = some i.length ∧ rest = (op :: tail).drop i.length) ∧
  (∀ (op : Byte) (tail : List Byte) (n : Nat), opcodeLength op = some n → n ≤ tail.length + 1 →
    ∃ (i : Instr) (rest : List Byte), decode (op :: tail) = .ok (i, rest))

/-- 30_encoding.md R62 to R64, in opcode_table.json's numbering of the bits. -/
def Obligations.TableNumberDecodesToTheInstruction : Prop :=
  ∀ i : Instr, decodeTableWord (8 * i.length) (tableNumber (encode i)) = some i

/-! ### Memory -/

/-- 20_memory.md R41, R42, R52: after any sequence of writes, oldest first, a read returns the latest write to its
address, or what was there before. -/
def Obligations.ReadReturnsTheLatestWrite : Prop :=
  ∀ (m : Memory) (writes : List (Word × Byte)) (addr : Word), Memory.wf m = true →
    Memory.read (writes.foldl (fun m c => Memory.write m c.1 c.2) m) addr =
      match writes.reverse.find? (fun c => c.1 == addr) with
      | some c => c.2
      | none => Memory.read m addr

/-- The canonical form is worth its name (log entry 6): memories whose bytes agree are equal data. -/
def Obligations.MemoriesWithEqualBytesAreEqual : Prop :=
  ∀ m m' : Memory, Memory.wf m = true → Memory.wf m' = true →
    (∀ addr : Word, Memory.read m addr = Memory.read m' addr) → m = m'

/-- 20_memory.md R59, 70_reset_and_hazards.md R150: `initialize()` is what writing 0x00 at every address leaves, in any
order. -/
def Obligations.ZeroFillOfEveryAddressIsInitialize : Prop :=
  ∀ (m : Memory) (addrs : List Word), Memory.wf m = true → (∀ addr : Word, addr ∈ addrs) →
    addrs.foldl (fun m addr => Memory.write m addr 0x00) m = Memory.initialize m

/-- 20_memory.md R44: where each half of a word goes, what else changes, and the charge. That the high byte of a write at
0xFFFF goes to 0x0000 is the spec's decision D2 (92_eei_decisions.md, log entry 5). -/
def Obligations.WordWriteStoresLowByteAndHighByte : Prop :=
  ∀ (addr w : Word) (s : State), Inv s →
    (memRead addr (writeWord addr w s)).toNat = w.toNat % 256 ∧
    (memRead (addr + 1) (writeWord addr w s)).toNat = w.toNat / 256 ∧
    (∀ b : Word, b ≠ addr → b ≠ addr + 1 → memRead b (writeWord addr w s) = memRead b s) ∧
    writeWord addr w s = { s with mem := (writeWord addr w s).mem, budget := s.budget - 2 }

/-- 20_memory.md R46: a written word, read as two bytes and fetched as a word. -/
def Obligations.WrittenWordIsFetchedUnchanged : Prop :=
  ∀ (addr w : Word) (s : State), Inv s →
    memRead addr (writeWord addr w s) = lo8 w ∧
    memRead (addr + 1) (writeWord addr w s) = hi8 w ∧
    (fetchWord ((writeWord addr w s).setPc addr)).1 = w

/-! ### Primitives and flags -/

/-- 40_engine.md R80 (the saturation) and R81 (that charges compose). -/
def Obligations.ChargesSaturateAndCompose : Prop :=
  ∀ (m n : Nat) (s : State),
    ((charge n s).budget : Int) = max 0 ((s.budget : Int) - n) ∧
    charge n s = { s with budget := (charge n s).budget } ∧
    charge n (charge m s) = charge (m + n) s

/-- 40_engine.md R82. -/
def Obligations.FetchByteAdvancesPcAndCharges : Prop :=
  ∀ s : State,
    (fetchByte s).1 = memRead s.pc s ∧
    (fetchByte s).2.pc.toNat = (s.pc.toNat + 1) % 65536 ∧
    (fetchByte s).2 = { s with pc := s.pc + 1, budget := s.budget - 1 }

/-- 40_engine.md R83: little-endian, two byte fetches with PC advancing, and wrapping, between them. -/
def Obligations.FetchWordIsTwoByteFetches : Prop :=
  ∀ s : State,
    (fetchWord s).1.toNat = 256 * (fetchByte (fetchByte s).2).1.toNat + (fetchByte s).1.toNat ∧
    (fetchWord s).2 = (fetchByte (fetchByte s).2).2 ∧
    (fetchWord s).2 = { s with pc := s.pc + 2, budget := s.budget - 2 }

/-- 40_engine.md R84. -/
def Obligations.ZeroPageReadLeavesPcUnchanged : Prop :=
  ∀ (zp : Byte) (s : State),
    (readByte zp s).1 = memRead (BitVec.ofNat 16 zp.toNat) s ∧
    (readByte zp s).2 = { s with budget := s.budget - 1 }

/-- 40_engine.md R86. -/
def Obligations.LoadFlagsFollowTheAccumulator : Prop :=
  ∀ s : State,
    ((computeLoadFlags s).flagZ = true ↔ s.a.toNat = 0) ∧
    ((computeLoadFlags s).flagN = true ↔ 128 ≤ s.a.toNat) ∧
    computeLoadFlags s =
      { s with flagZ := (computeLoadFlags s).flagZ, flagN := (computeLoadFlags s).flagN }

/-! ### Instructions: the result, on the state the fetch left -/

/-- LDA immediate completes in every state (41_load.md R111, after the fetch: log entry 4). -/
def Obligations.LdaImmediateLoadsItsOperand : Prop :=
  ∀ (imm : Byte) (s : State),
    exec (.ldaImm imm) s =
      .next { s with
        a := imm
        flagZ := decide (imm.toNat = 0)
        flagN := decide (128 ≤ imm.toNat) }

/-- LDA zero-page completes in every state (41_load.md R112, after the fetch: log entry 4). -/
def Obligations.LdaZeroPageLoadsTheByte : Prop :=
  ∀ (zp : Byte) (s : State),
    exec (.ldaZp zp) s =
      .next { s with
        a := memRead (zeroPageAddr zp) s
        flagZ := decide ((memRead (zeroPageAddr zp) s).toNat = 0)
        flagN := decide (128 ≤ (memRead (zeroPageAddr zp) s).toNat)
        budget := s.budget - 1 }

/-- JSR completes in every state (42_subroutine.md R120, after the fetch, where PC is the post-fetch pc: log entry 4). -/
def Obligations.JsrStoresPcMinusOneAndJumps : Prop :=
  ∀ (target : Word) (s : State),
    exec (.jsr target) s =
      .next { s with
        mem := Memory.write (Memory.write s.mem (stackAddr s) (lo8 (s.pc - 1))) (stackAddr s + 1) (hi8 (s.pc - 1))
        pc := target
        sp := s.sp + 2
        budget := s.budget - 3 }

/-! ### Instructions: the frame, and what a store leaves -/

/-- 41_load.md R110, the frame of both loads: A, Z and N (and PC, in the fetch) are all they write; no byte of memory. On
the state the fetch left (log entry 4). -/
def Obligations.LoadsChangeOnlyAccumulatorAndItsFlags : Prop :=
  ∀ (i : Instr) (s t : State), (∃ zp, i = .ldaZp zp) ∨ (∃ imm, i = .ldaImm imm) → exec i s = .next t →
    t.sp = s.sp ∧ t.x = s.x ∧ t.y = s.y ∧
    t.flagC = s.flagC ∧ t.flagI = s.flagI ∧ t.flagD = s.flagD ∧ t.flagB = s.flagB ∧ t.flagV = s.flagV ∧
    ∀ b : Word, memRead b t = memRead b s

/-- 42_subroutine.md R120, the frame of JSR: SP is the one register it writes beside PC; no flag; no byte of memory but
the two of the stack word, which stands at the raw SP (R122). On the
state the fetch left (log entry 4). -/
def Obligations.JsrChangesOnlySpAndTheStackWord : Prop :=
  ∀ (target : Word) (s t : State), exec (.jsr target) s = .next t →
    t.sp = s.sp + 2 ∧ t.a = s.a ∧ t.x = s.x ∧ t.y = s.y ∧
    t.flagC = s.flagC ∧ t.flagZ = s.flagZ ∧ t.flagI = s.flagI ∧ t.flagD = s.flagD ∧ t.flagB = s.flagB ∧
    t.flagV = s.flagV ∧ t.flagN = s.flagN ∧
    ∀ addr : Word, stackAddr s = addr → ∀ b : Word, b ≠ addr → b ≠ addr + 1 → memRead b t = memRead b s

/-- 42_subroutine.md R121: read back little-endian, the stack word is the post-fetch pc minus 1, which is the PC `exec`
sees (log entry 4). -/
def Obligations.StackWordReadsBackAsReturnAddress : Prop :=
  ∀ (target : Word) (s t : State), Inv s → exec (.jsr target) s = .next t →
    (memRead (stackAddr s) t).toNat + 256 * (memRead (stackAddr s + 1) t).toNat = (s.pc.toNat + 65535) % 65536

/-- 42_subroutine.md R123: a stack word that stands in the zero page is read back by LDA zero-page. The PC of the
first `exec` is the post-fetch pc (log entry 4); what the load reads does not depend on PC. -/
def Obligations.LoadReadsBackACallsStackWord : Prop :=
  ∀ (target : Word) (zp : Byte) (s t : State), Inv s → stackAddr s = zeroPageAddr zp → exec (.jsr target) s = .next t →
    ∃ u : State, exec (.ldaZp zp) t = .next u ∧ u.a = lo8 (s.pc - 1)

/-! ### Steps -/

/-- A step of a running machine whose bytes at PC decode is the instruction's effect on the state with PC past those bytes
and one cycle charged for each. That all of an instruction's bytes are fetched before its effect is the model's split (log
entry 4, DEDUCED): in 40_engine.md R87, R88, R95 the handler fetches its own operands. -/
def Obligations.StepRunsTheDecodedInstruction : Prop :=
  ∀ (s : State) (i : Instr) (rest : List Byte), s.budget ≠ 0 → decode (bytesAt s.mem s.pc 3) = .ok (i, rest) →
    step s = exec i { s with pc := s.pc + BitVec.ofNat 16 i.length, budget := s.budget - i.length }

/-- How a program is placed (log entry 3, a design choice): the next step runs exactly the placed instruction, and placing
it changes memory and a budget of 0 only. That the step is `exec` on the state with the instruction's fetch done is the
model's split (log entry 4, DEDUCED). -/
def Obligations.PlacedInstructionIsTheOneTheStepRuns : Prop :=
  ∀ (i : Instr) (s p : State), Inv s → p = s.withFetchWord (8 * i.length) (tableNumber (encode i)) →
    step p = exec i { p with pc := s.pc + BitVec.ofNat 16 i.length, budget := p.budget - i.length } ∧
    p = { s with mem := p.mem, budget := if s.budget = 0 then 6 else s.budget }

/-- 41_load.md R111: the net effect of LDA immediate. -/
def Obligations.StepOfLdaImmediate : Prop :=
  ∀ s : State, s.budget ≠ 0 → memRead s.pc s = 0xA9 →
    step s =
      .next { s with
        a := memRead (s.pc + 1) s
        pc := s.pc + 2
        flagZ := decide (memRead (s.pc + 1) s = 0)
        flagN := (memRead (s.pc + 1) s).getLsbD 7
        budget := s.budget - 2 }

/-- 41_load.md R112: the net effect of LDA zero-page. -/
def Obligations.StepOfLdaZeroPage : Prop :=
  ∀ (s : State) (v : Byte), s.budget ≠ 0 → memRead s.pc s = 0xA5 →
    v = memRead (BitVec.ofNat 16 (memRead (s.pc + 1) s).toNat) s →
    step s =
      .next { s with
        a := v
        pc := s.pc + 2
        flagZ := decide (v = 0)
        flagN := v.getLsbD 7
        budget := s.budget - 3 }

/-- 42_subroutine.md R120: the net effect of JSR. -/
def Obligations.StepOfJsr : Prop :=
  ∀ s : State, s.budget ≠ 0 → memRead s.pc s = 0x20 →
    step s =
      .next { s with
        mem := Memory.write (Memory.write s.mem s.sp (lo8 (s.pc + 2))) (s.sp + 1) (hi8 (s.pc + 2))
        pc := memRead (s.pc + 2) s ++ memRead (s.pc + 1) s
        sp := s.sp + 2
        budget := s.budget - 6 }

/-- 40_engine.md R92: `Exhausted` exactly when the budget is 0 at step 1, and nothing changed. That a stop is a
fault that carries its state is the model's choice of form (log entry 2). -/
def Obligations.ExhaustedExactlyAtZeroBudget : Prop :=
  ∀ s t : State, step s = .fault (.exhausted t) ↔ s.budget = 0 ∧ t = s

/-- 60_exceptions.md R130, R131: when a step stops on an unhandled opcode, and the state it leaves (as the fault
carries it, log entry 2). -/
def Obligations.UnhandledExactlyOnUnknownOpcode : Prop :=
  ∀ (s t : State) (op : Byte), step s = .fault (.unhandled op t) ↔
    s.budget ≠ 0 ∧ op = memRead s.pc s ∧ ¬ KnownOpcode op ∧
    t = { s with pc := s.pc + 1, budget := s.budget - 1 }

/-- 40_engine.md R90, 60_exceptions.md R134: an instruction of the table, once the budget lets it start, completes. -/
def Obligations.KnownOpcodeWithBudgetAlwaysCompletes : Prop :=
  ∀ s : State, (∃ t : State, step s = .next t) ↔ s.budget ≠ 0 ∧ KnownOpcode (memRead s.pc s)

/-- 00_scope.md R17: every state has a next state or one of the two terminal outcomes; no step is refused. -/
def Obligations.EveryStateHasANextStateOrAnOutcome : Prop :=
  ∀ s : State,
    (∃ t : State, step s = .next t) ∨ (∃ t : State, step s = .fault (.exhausted t)) ∨
    (∃ (op : Byte) (t : State), step s = .fault (.unhandled op t))

/-- 70_reset_and_hazards.md R160: the cost of each instruction, and of an unhandled opcode's fetch; and, what 40_engine.md
R93 derives the end of every call from, that every step charges at least 1. -/
def Obligations.StepChargesTheTablesCost : Prop :=
  ∀ (s t : State) (op : Byte), step s = .next t ∨ step s = .fault (.unhandled op t) →
    (memRead s.pc s = 0xA9 → t.budget = s.budget - 2) ∧
    (memRead s.pc s = 0xA5 → t.budget = s.budget - 3) ∧
    (memRead s.pc s = 0x20 → t.budget = s.budget - 6) ∧
    (¬ KnownOpcode (memRead s.pc s) → t.budget = s.budget - 1) ∧
    t.budget < s.budget

/-- The memory's canonical form (log entry 6) is an invariant of every step, from any state that meets it. -/
def Obligations.StepKeepsMemoryCanonical : Prop :=
  ∀ s t : State, Inv s → step s = .next t → Inv t

/-- The reset state meets the invariant. -/
def Obligations.ResetMemoryIsCanonical : Prop := Inv State.reset

/-- 10_state.md R23, R28: what a step may write. X, Y, C, I, D, B and V are written by none; SP and memory by JSR only;
A, Z and N by the loads only. The bytes of memory are those of 20_memory.md R48, 41_load.md R110, 42_subroutine.md R120. -/
def Obligations.StepsWriteOnlyWhatTheAccessMatrixSays : Prop :=
  ∀ s t : State, step s = .next t →
    t.bystanders = s.bystanders ∧
    (memRead s.pc s ≠ 0x20 → t.sp = s.sp ∧ ∀ b : Word, memRead b t = memRead b s) ∧
    (memRead s.pc s = 0x20 →
      t.sp = s.sp + 2 ∧ t.a = s.a ∧ t.flagZ = s.flagZ ∧ t.flagN = s.flagN ∧
      ∀ b : Word, b ≠ stackAddr s → b ≠ stackAddr s + 1 → memRead b t = memRead b s)

/-- 10_state.md R28, 41_load.md R110, 42_subroutine.md R120: X, Y, C, I, D, B and V have no influence on a step: with
others in their place it does the same, and they stay. -/
def Obligations.BystandersHaveNoInfluence : Prop :=
  ∀ (u : Bystanders) (s : State),
    step (s.withBystanders u) = mapOutcome (fun t => t.withBystanders u) (step s)

/-- 42_subroutine.md R121, R122: the stack words of two calls, run by two steps, stand one above the other, each the
address of its call's last byte, and the second leaves the first's as it was. That SP grows is the spec's decision D12, and
the wraps are D2 and D3 (92_eei_decisions.md, log entry 5). -/
def Obligations.SuccessiveCallsFillIncreasingAddresses : Prop :=
  ∀ s t u : State, Inv s → memRead s.pc s = 0x20 → step s = .next t → memRead t.pc t = 0x20 → step t = .next u →
    stackAddr t = stackAddr s + 2 ∧ stackAddr u = stackAddr s + 4 ∧
    memRead (stackAddr s) u = lo8 (s.pc + 2) ∧ memRead (stackAddr s + 1) u = hi8 (s.pc + 2) ∧
    memRead (stackAddr s + 2) u = lo8 (t.pc + 2) ∧ memRead (stackAddr s + 3) u = hi8 (t.pc + 2)

/-- 20_memory.md R55, 42_subroutine.md R120 (overlap with code): a call whose target is its own stack word fetches, on
the next step, the low byte it just stored. -/
def Obligations.CallIntoItsStackWordFetchesTheStoredByte : Prop :=
  ∀ s t : State, Inv s → step s = .next t → memRead s.pc s = 0x20 → t.pc = s.sp →
    (fetchByte t).1 = lo8 (s.pc + 2)

/-! ### The host's operations -/

/-- 10_state.md R34. -/
def Obligations.ConstructionIsAllZero : Prop :=
  State.constructed.pc = 0x0000 ∧ State.constructed.sp = 0x0000 ∧
  State.constructed.a = 0 ∧ State.constructed.x = 0 ∧ State.constructed.y = 0 ∧
  State.constructed.flagC = false ∧ State.constructed.flagZ = false ∧ State.constructed.flagI = false ∧
  State.constructed.flagD = false ∧ State.constructed.flagB = false ∧ State.constructed.flagV = false ∧
  State.constructed.flagN = false ∧
  ∀ addr : Word, memRead addr State.constructed = 0x00

/-- 10_state.md R35. -/
def Obligations.ResetStateHoldsTheResetValues : Prop :=
  State.reset.pc = 0xFFFC ∧ State.reset.sp = 0x0100 ∧
  State.reset.a = 0 ∧ State.reset.x = 0 ∧ State.reset.y = 0 ∧
  State.reset.flagC = false ∧ State.reset.flagZ = false ∧ State.reset.flagI = true ∧
  State.reset.flagD = false ∧ State.reset.flagB = false ∧ State.reset.flagV = false ∧
  State.reset.flagN = false ∧
  ∀ addr : Word, memRead addr State.reset = 0x00

/-- 70_reset_and_hazards.md R152: reset forgets the prior state and is idempotent. That the budget field stays is the
model's (log entry 1). -/
def Obligations.ResetIsIdempotentFromAnyState : Prop :=
  ∀ s : State,
    hostReset s = { State.reset with budget := s.budget } ∧
    hostReset (hostReset s) = hostReset s

/-- 40_engine.md R105: `set_pc` and `set_a` write one field; Z and N are not recomputed. -/
def Obligations.SettersWriteOneField : Prop :=
  ∀ (pc : Word) (a : Byte) (s : State),
    hostApply (.setPc pc) s = { s with pc := pc } ∧
    hostApply (.setA a) s = { s with a := a }

/-- 40_engine.md R93: with at most `cycle_budget + 1` budget tests every execute call ends. That the model's loop
runs on that much fuel is log entry 10. -/
def Obligations.EveryExecuteCallReturns : Prop :=
  ∀ (cycleBudget : Nat) (s : State), ∃ r : ExecuteResult, execute cycleBudget s = some r

/-- 40_engine.md R91: with a budget of 0 nothing is fetched and nothing changes; the budget field is the model's
(log entries 1, 9). -/
def Obligations.ExecuteWithZeroBudgetChangesNothing : Prop :=
  ∀ s : State, execute 0 s = some ⟨.exhausted, 0, { s with budget := 0 }⟩

/-- 40_engine.md R94: the remaining budget a call reports. -/
def Obligations.ExhaustedCallReportsZeroBudget : Prop :=
  ∀ (cycleBudget : Nat) (s : State) (r : ExecuteResult), execute cycleBudget s = some r →
    r.remaining = r.final.budget ∧ r.remaining ≤ cycleBudget ∧ (r.outcome = .exhausted → r.remaining = 0)

/-- 60_exceptions.md R131, R135, R138: after a call of any length that an unhandled opcode ended, the byte before PC is
that opcode, it is not in the table, and at least its fetch was charged. -/
def Obligations.UnhandledCallStopsJustPastTheOpcode : Prop :=
  ∀ (cycleBudget : Nat) (s : State) (r : ExecuteResult) (op : Byte), execute cycleBudget s = some r →
    r.outcome = .unhandled op →
    memRead (r.final.pc - 1) r.final = op ∧ ¬ KnownOpcode op ∧ r.remaining < cycleBudget

/-- 10_state.md R33, 60_exceptions.md R139: a call keeps nothing but the state: from a state that a run of it passes
through, a new call with the budget left there ends as the first would. The fuel of `execute` is log entry 10. -/
def Obligations.ExecuteResumesFromAnyIntermediateState : Prop :=
  ∀ (steps cycleBudget : Nat) (s t : State),
    Host.Core.run Sys2Proof.core steps (s.setBudget cycleBudget) = .next t →
    execute cycleBudget s = execute t.budget t

/-- 10_state.md R23, R26, R28: in every state a host can bring about, X and Y are 0, C, D, B and V are 0, SP is even, and
the memory is canonical (log entries 6, 9). -/
def Obligations.ReachableStatesKeepTheirValues : Prop :=
  ∀ s : State, Reachable s → ReachableValues s ∧ Inv s
end

