-- ==== Sys2Proof/Laws/Decode.lean ====
section
/-!
SUPPORT. The dispatch table, one lemma a row and one for every other byte (30_encoding.md R66, R68).
-/

namespace Sys2Proof

theorem decodeOpcode_ldaImm : decodeOpcode 0xA9 = some (.oneByte .ldaImm) := rfl

theorem decodeOpcode_ldaZp : decodeOpcode 0xA5 = some (.oneByte .ldaZp) := rfl

theorem decodeOpcode_jsr : decodeOpcode 0x20 = some (.twoBytes .jsr) := rfl

theorem decodeOpcode_unhandled {op : Byte} (h9 : op ≠ 0xA9) (h5 : op ≠ 0xA5) (h2 : op ≠ 0x20) :
    decodeOpcode op = none := by
  rw [decodeOpcode, if_neg h9, if_neg h5, if_neg h2]

/-- The rows are all there is: what `decodeOpcode` answers tells the opcode. -/
theorem decodeOpcode_cases (op : Byte) :
    (op = 0xA9 ∧ decodeOpcode op = some (.oneByte .ldaImm)) ∨
    (op = 0xA5 ∧ decodeOpcode op = some (.oneByte .ldaZp)) ∨
    (op = 0x20 ∧ decodeOpcode op = some (.twoBytes .jsr)) ∨
    (op ≠ 0xA9 ∧ op ≠ 0xA5 ∧ op ≠ 0x20 ∧ decodeOpcode op = none) := by
  by_cases h9 : op = 0xA9
  · exact .inl ⟨h9, h9 ▸ rfl⟩
  by_cases h5 : op = 0xA5
  · exact .inr (.inl ⟨h5, h5 ▸ rfl⟩)
  by_cases h2 : op = 0x20
  · exact .inr (.inr (.inl ⟨h2, h2 ▸ rfl⟩))
  · exact .inr (.inr (.inr ⟨h9, h5, h2, decodeOpcode_unhandled h9 h5 h2⟩))

/-- Decoding a byte that is no opcode. -/
theorem decode_of_unhandled {op : Byte} (h : decodeOpcode op = none) (rest : List Byte) :
    decode (op :: rest) = .error (.unhandled op) := by
  simp only [decode, h]

/-- Decoding an opcode of the table. -/
theorem decode_of_entry {op : Byte} {entry : Entry} (h : decodeOpcode op = some entry) (rest : List Byte) :
    decode (op :: rest) = decodeOperands op entry rest := by
  simp only [decode, h]

end Sys2Proof
end

