-- ==== Sys2Proof/Laws/Memory.lean ====
section
/-!
SUPPORT. The laws of the memory: what a read sees after a write, and that every operation keeps the canonical form.
-/

namespace Sys2Proof.Machine

@[simp] theorem Memory.wfFrom_nil (lo : Nat) : Memory.wfFrom lo [] = true := rfl

/-- The canonical form of a memory with a first cell, as a conjunction. -/
theorem Memory.wfFrom_cons {lo k : Nat} {v : Byte} {m : Memory} :
    Memory.wfFrom lo ((k, v) :: m) = true ↔
      lo ≤ k ∧ k < Config.memorySize ∧ v ≠ Memory.unlisted ∧ Memory.wfFrom (k + 1) m = true := by
  simp [Memory.wfFrom, and_assoc]

/-- A canonical memory stays canonical when less is asked of its first address. -/
theorem Memory.wfFrom_mono {lo lo' : Nat} {m : Memory} (h : Memory.wfFrom lo m = true) (hle : lo' ≤ lo) :
    Memory.wfFrom lo' m = true := by
  cases m with
  | nil => rfl
  | cons c m =>
    obtain ⟨hlo, hk, hv, hm⟩ := Memory.wfFrom_cons.mp h
    exact Memory.wfFrom_cons.mpr ⟨hle.trans hlo, hk, hv, hm⟩

/-- Below its first address a canonical memory lists nothing. -/
theorem Memory.lookup_below {lo k : Nat} {m : Memory} (h : Memory.wfFrom lo m = true) (hk : k < lo) :
    Memory.lookup m k = Memory.unlisted := by
  induction m generalizing lo with
  | nil => rfl
  | cons c m ih =>
    obtain ⟨k', v'⟩ := c
    obtain ⟨hlo, -, -, hm⟩ := Memory.wfFrom_cons.mp h
    have hne : k' ≠ k := by omega
    simpa [Memory.lookup, hne] using ih hm (by omega)

theorem Memory.insert_nil (k : Nat) (v : Byte) :
    Memory.insert [] k v = if v = Memory.unlisted then [] else [(k, v)] := rfl

/-- Where insertion goes relative to the first cell. -/
theorem Memory.insert_cons (k' : Nat) (v' : Byte) (m : Memory) (k : Nat) (v : Byte) :
    Memory.insert ((k', v') :: m) k v =
      if k < k' then if v = Memory.unlisted then (k', v') :: m else (k, v) :: (k', v') :: m
      else if k = k' then if v = Memory.unlisted then m else (k, v) :: m
      else (k', v') :: Memory.insert m k v := rfl

/-- Insertion keeps the canonical form. -/
theorem Memory.insert_wfFrom {lo k : Nat} {v : Byte} {m : Memory} (h : Memory.wfFrom lo m = true) (hlo : lo ≤ k)
    (hk : k < Config.memorySize) : Memory.wfFrom lo (Memory.insert m k v) = true := by
  induction m generalizing lo with
  | nil =>
    rw [Memory.insert_nil]
    split
    · rfl
    · exact Memory.wfFrom_cons.mpr ⟨hlo, hk, ‹_›, rfl⟩
  | cons c m ih =>
    obtain ⟨k', v'⟩ := c
    obtain ⟨hlo', hk', hv', hm⟩ := Memory.wfFrom_cons.mp h
    rw [Memory.insert_cons]
    split_ifs with hlt hv heq hv
    · exact h
    · exact Memory.wfFrom_cons.mpr ⟨hlo, hk, hv, Memory.wfFrom_cons.mpr ⟨hlt, hk', hv', hm⟩⟩
    · exact Memory.wfFrom_mono hm (by omega)
    · exact Memory.wfFrom_cons.mpr ⟨hlo, hk, hv, heq ▸ hm⟩
    · exact Memory.wfFrom_cons.mpr ⟨hlo', hk', hv', ih hm (by omega)⟩

/-- In a canonical memory the inserted byte is what is then found. -/
theorem Memory.lookup_insert_self {lo k : Nat} {v : Byte} {m : Memory} (h : Memory.wfFrom lo m = true) :
    Memory.lookup (Memory.insert m k v) k = v := by
  induction m generalizing lo with
  | nil => by_cases hv : v = Memory.unlisted <;> simp [Memory.insert, Memory.lookup, hv]
  | cons c m ih =>
    obtain ⟨k', v'⟩ := c
    obtain ⟨-, -, -, hm⟩ := Memory.wfFrom_cons.mp h
    rcases lt_trichotomy k k' with hlt | rfl | hgt
    · by_cases hv : v = Memory.unlisted
      · simpa [Memory.insert, hv, hlt, Memory.lookup, show k' ≠ k by omega] using Memory.lookup_below hm (by omega)
      · simp [Memory.insert, hv, hlt, Memory.lookup]
    · by_cases hv : v = Memory.unlisted
      · simpa [Memory.insert, hv] using Memory.lookup_below hm (by omega)
      · simp [Memory.insert, hv, Memory.lookup]
    · simpa [Memory.insert, show ¬ k < k' by omega, show k ≠ k' by omega, Memory.lookup, show k' ≠ k by omega]
        using ih hm

/-- Insertion leaves every other address alone, in any memory. -/
theorem Memory.lookup_insert_other {k j : Nat} {v : Byte} {m : Memory} (hne : j ≠ k) :
    Memory.lookup (Memory.insert m k v) j = Memory.lookup m j := by
  induction m with
  | nil => by_cases hv : v = Memory.unlisted <;> simp [Memory.insert, Memory.lookup, hv, hne.symm]
  | cons c m ih =>
    obtain ⟨k', v'⟩ := c
    rcases lt_trichotomy k k' with hlt | rfl | hgt
    · by_cases hv : v = Memory.unlisted <;> simp [Memory.insert, hv, hlt, Memory.lookup, hne.symm]
    · by_cases hv : v = Memory.unlisted <;> simp [Memory.insert, hv, Memory.lookup, hne.symm]
    · simp [Memory.insert, show ¬ k < k' by omega, show k ≠ k' by omega, Memory.lookup, ih]

/-- A byte write keeps the canonical form. -/
theorem Memory.write_wf {m : Memory} (h : Memory.wf m = true) (addr : Word) (v : Byte) :
    Memory.wf (Memory.write m addr v) = true :=
  Memory.insert_wfFrom h (Nat.zero_le _) addr.isLt

/-- `initialize()` leaves a memory in canonical form. -/
theorem Memory.initialize_wf (m : Memory) : Memory.wf (Memory.initialize m) = true := rfl

/-- `initialize()` "sets every byte to 0" (20_memory.md R59). -/
theorem Memory.read_initialize (m : Memory) (addr : Word) : Memory.read (Memory.initialize m) addr = 0x00 := rfl

/-- A read of the written address sees the written byte (20_memory.md R42). -/
theorem Memory.read_write_self {m : Memory} (h : Memory.wf m = true) (addr : Word) (v : Byte) :
    Memory.read (Memory.write m addr v) addr = v :=
  Memory.lookup_insert_self h

/-- A read of any other address sees what it saw before (20_memory.md R42). -/
theorem Memory.read_write_other {m : Memory} {addr b : Word} (hne : b ≠ addr) (v : Byte) :
    Memory.read (Memory.write m addr v) b = Memory.read m b :=
  Memory.lookup_insert_other fun h => hne (BitVec.eq_of_toNat_eq h)

end Sys2Proof.Machine
end

