-- ==== Sys2Proof/Laws/State.lean ====
section
/-!
SUPPORT. What each update of the state does to each field: the field it writes holds the new value, every other field is
as it was (10_state.md R21: no aliasing).
-/

namespace Sys2Proof.Machine

@[simp] theorem State.setPc_pc (v : Word) (s : State) : (s.setPc v).pc = v := rfl
@[simp] theorem State.setPc_sp (v : Word) (s : State) : (s.setPc v).sp = s.sp := rfl
@[simp] theorem State.setPc_a (v : Word) (s : State) : (s.setPc v).a = s.a := rfl
@[simp] theorem State.setPc_x (v : Word) (s : State) : (s.setPc v).x = s.x := rfl
@[simp] theorem State.setPc_y (v : Word) (s : State) : (s.setPc v).y = s.y := rfl
@[simp] theorem State.setPc_flagC (v : Word) (s : State) : (s.setPc v).flagC = s.flagC := rfl
@[simp] theorem State.setPc_flagZ (v : Word) (s : State) : (s.setPc v).flagZ = s.flagZ := rfl
@[simp] theorem State.setPc_flagI (v : Word) (s : State) : (s.setPc v).flagI = s.flagI := rfl
@[simp] theorem State.setPc_flagD (v : Word) (s : State) : (s.setPc v).flagD = s.flagD := rfl
@[simp] theorem State.setPc_flagB (v : Word) (s : State) : (s.setPc v).flagB = s.flagB := rfl
@[simp] theorem State.setPc_flagV (v : Word) (s : State) : (s.setPc v).flagV = s.flagV := rfl
@[simp] theorem State.setPc_flagN (v : Word) (s : State) : (s.setPc v).flagN = s.flagN := rfl
@[simp] theorem State.setPc_mem (v : Word) (s : State) : (s.setPc v).mem = s.mem := rfl
@[simp] theorem State.setPc_budget (v : Word) (s : State) : (s.setPc v).budget = s.budget := rfl

@[simp] theorem State.setSp_pc (v : Word) (s : State) : (s.setSp v).pc = s.pc := rfl
@[simp] theorem State.setSp_sp (v : Word) (s : State) : (s.setSp v).sp = v := rfl
@[simp] theorem State.setSp_a (v : Word) (s : State) : (s.setSp v).a = s.a := rfl
@[simp] theorem State.setSp_x (v : Word) (s : State) : (s.setSp v).x = s.x := rfl
@[simp] theorem State.setSp_y (v : Word) (s : State) : (s.setSp v).y = s.y := rfl
@[simp] theorem State.setSp_flagC (v : Word) (s : State) : (s.setSp v).flagC = s.flagC := rfl
@[simp] theorem State.setSp_flagZ (v : Word) (s : State) : (s.setSp v).flagZ = s.flagZ := rfl
@[simp] theorem State.setSp_flagI (v : Word) (s : State) : (s.setSp v).flagI = s.flagI := rfl
@[simp] theorem State.setSp_flagD (v : Word) (s : State) : (s.setSp v).flagD = s.flagD := rfl
@[simp] theorem State.setSp_flagB (v : Word) (s : State) : (s.setSp v).flagB = s.flagB := rfl
@[simp] theorem State.setSp_flagV (v : Word) (s : State) : (s.setSp v).flagV = s.flagV := rfl
@[simp] theorem State.setSp_flagN (v : Word) (s : State) : (s.setSp v).flagN = s.flagN := rfl
@[simp] theorem State.setSp_mem (v : Word) (s : State) : (s.setSp v).mem = s.mem := rfl
@[simp] theorem State.setSp_budget (v : Word) (s : State) : (s.setSp v).budget = s.budget := rfl

@[simp] theorem State.setA_pc (v : Byte) (s : State) : (s.setA v).pc = s.pc := rfl
@[simp] theorem State.setA_sp (v : Byte) (s : State) : (s.setA v).sp = s.sp := rfl
@[simp] theorem State.setA_a (v : Byte) (s : State) : (s.setA v).a = v := rfl
@[simp] theorem State.setA_x (v : Byte) (s : State) : (s.setA v).x = s.x := rfl
@[simp] theorem State.setA_y (v : Byte) (s : State) : (s.setA v).y = s.y := rfl
@[simp] theorem State.setA_flagC (v : Byte) (s : State) : (s.setA v).flagC = s.flagC := rfl
@[simp] theorem State.setA_flagZ (v : Byte) (s : State) : (s.setA v).flagZ = s.flagZ := rfl
@[simp] theorem State.setA_flagI (v : Byte) (s : State) : (s.setA v).flagI = s.flagI := rfl
@[simp] theorem State.setA_flagD (v : Byte) (s : State) : (s.setA v).flagD = s.flagD := rfl
@[simp] theorem State.setA_flagB (v : Byte) (s : State) : (s.setA v).flagB = s.flagB := rfl
@[simp] theorem State.setA_flagV (v : Byte) (s : State) : (s.setA v).flagV = s.flagV := rfl
@[simp] theorem State.setA_flagN (v : Byte) (s : State) : (s.setA v).flagN = s.flagN := rfl
@[simp] theorem State.setA_mem (v : Byte) (s : State) : (s.setA v).mem = s.mem := rfl
@[simp] theorem State.setA_budget (v : Byte) (s : State) : (s.setA v).budget = s.budget := rfl

@[simp] theorem State.setFlagZ_pc (v : Bool) (s : State) : (s.setFlagZ v).pc = s.pc := rfl
@[simp] theorem State.setFlagZ_sp (v : Bool) (s : State) : (s.setFlagZ v).sp = s.sp := rfl
@[simp] theorem State.setFlagZ_a (v : Bool) (s : State) : (s.setFlagZ v).a = s.a := rfl
@[simp] theorem State.setFlagZ_x (v : Bool) (s : State) : (s.setFlagZ v).x = s.x := rfl
@[simp] theorem State.setFlagZ_y (v : Bool) (s : State) : (s.setFlagZ v).y = s.y := rfl
@[simp] theorem State.setFlagZ_flagC (v : Bool) (s : State) : (s.setFlagZ v).flagC = s.flagC := rfl
@[simp] theorem State.setFlagZ_flagZ (v : Bool) (s : State) : (s.setFlagZ v).flagZ = v := rfl
@[simp] theorem State.setFlagZ_flagI (v : Bool) (s : State) : (s.setFlagZ v).flagI = s.flagI := rfl
@[simp] theorem State.setFlagZ_flagD (v : Bool) (s : State) : (s.setFlagZ v).flagD = s.flagD := rfl
@[simp] theorem State.setFlagZ_flagB (v : Bool) (s : State) : (s.setFlagZ v).flagB = s.flagB := rfl
@[simp] theorem State.setFlagZ_flagV (v : Bool) (s : State) : (s.setFlagZ v).flagV = s.flagV := rfl
@[simp] theorem State.setFlagZ_flagN (v : Bool) (s : State) : (s.setFlagZ v).flagN = s.flagN := rfl
@[simp] theorem State.setFlagZ_mem (v : Bool) (s : State) : (s.setFlagZ v).mem = s.mem := rfl
@[simp] theorem State.setFlagZ_budget (v : Bool) (s : State) : (s.setFlagZ v).budget = s.budget := rfl

@[simp] theorem State.setFlagN_pc (v : Bool) (s : State) : (s.setFlagN v).pc = s.pc := rfl
@[simp] theorem State.setFlagN_sp (v : Bool) (s : State) : (s.setFlagN v).sp = s.sp := rfl
@[simp] theorem State.setFlagN_a (v : Bool) (s : State) : (s.setFlagN v).a = s.a := rfl
@[simp] theorem State.setFlagN_x (v : Bool) (s : State) : (s.setFlagN v).x = s.x := rfl
@[simp] theorem State.setFlagN_y (v : Bool) (s : State) : (s.setFlagN v).y = s.y := rfl
@[simp] theorem State.setFlagN_flagC (v : Bool) (s : State) : (s.setFlagN v).flagC = s.flagC := rfl
@[simp] theorem State.setFlagN_flagZ (v : Bool) (s : State) : (s.setFlagN v).flagZ = s.flagZ := rfl
@[simp] theorem State.setFlagN_flagI (v : Bool) (s : State) : (s.setFlagN v).flagI = s.flagI := rfl
@[simp] theorem State.setFlagN_flagD (v : Bool) (s : State) : (s.setFlagN v).flagD = s.flagD := rfl
@[simp] theorem State.setFlagN_flagB (v : Bool) (s : State) : (s.setFlagN v).flagB = s.flagB := rfl
@[simp] theorem State.setFlagN_flagV (v : Bool) (s : State) : (s.setFlagN v).flagV = s.flagV := rfl
@[simp] theorem State.setFlagN_flagN (v : Bool) (s : State) : (s.setFlagN v).flagN = v := rfl
@[simp] theorem State.setFlagN_mem (v : Bool) (s : State) : (s.setFlagN v).mem = s.mem := rfl
@[simp] theorem State.setFlagN_budget (v : Bool) (s : State) : (s.setFlagN v).budget = s.budget := rfl

@[simp] theorem State.setMem_pc (m : Memory) (s : State) : (s.setMem m).pc = s.pc := rfl
@[simp] theorem State.setMem_sp (m : Memory) (s : State) : (s.setMem m).sp = s.sp := rfl
@[simp] theorem State.setMem_a (m : Memory) (s : State) : (s.setMem m).a = s.a := rfl
@[simp] theorem State.setMem_x (m : Memory) (s : State) : (s.setMem m).x = s.x := rfl
@[simp] theorem State.setMem_y (m : Memory) (s : State) : (s.setMem m).y = s.y := rfl
@[simp] theorem State.setMem_flagC (m : Memory) (s : State) : (s.setMem m).flagC = s.flagC := rfl
@[simp] theorem State.setMem_flagZ (m : Memory) (s : State) : (s.setMem m).flagZ = s.flagZ := rfl
@[simp] theorem State.setMem_flagI (m : Memory) (s : State) : (s.setMem m).flagI = s.flagI := rfl
@[simp] theorem State.setMem_flagD (m : Memory) (s : State) : (s.setMem m).flagD = s.flagD := rfl
@[simp] theorem State.setMem_flagB (m : Memory) (s : State) : (s.setMem m).flagB = s.flagB := rfl
@[simp] theorem State.setMem_flagV (m : Memory) (s : State) : (s.setMem m).flagV = s.flagV := rfl
@[simp] theorem State.setMem_flagN (m : Memory) (s : State) : (s.setMem m).flagN = s.flagN := rfl
@[simp] theorem State.setMem_mem (m : Memory) (s : State) : (s.setMem m).mem = m := rfl
@[simp] theorem State.setMem_budget (m : Memory) (s : State) : (s.setMem m).budget = s.budget := rfl

@[simp] theorem State.setBudget_pc (n : Nat) (s : State) : (s.setBudget n).pc = s.pc := rfl
@[simp] theorem State.setBudget_sp (n : Nat) (s : State) : (s.setBudget n).sp = s.sp := rfl
@[simp] theorem State.setBudget_a (n : Nat) (s : State) : (s.setBudget n).a = s.a := rfl
@[simp] theorem State.setBudget_x (n : Nat) (s : State) : (s.setBudget n).x = s.x := rfl
@[simp] theorem State.setBudget_y (n : Nat) (s : State) : (s.setBudget n).y = s.y := rfl
@[simp] theorem State.setBudget_flagC (n : Nat) (s : State) : (s.setBudget n).flagC = s.flagC := rfl
@[simp] theorem State.setBudget_flagZ (n : Nat) (s : State) : (s.setBudget n).flagZ = s.flagZ := rfl
@[simp] theorem State.setBudget_flagI (n : Nat) (s : State) : (s.setBudget n).flagI = s.flagI := rfl
@[simp] theorem State.setBudget_flagD (n : Nat) (s : State) : (s.setBudget n).flagD = s.flagD := rfl
@[simp] theorem State.setBudget_flagB (n : Nat) (s : State) : (s.setBudget n).flagB = s.flagB := rfl
@[simp] theorem State.setBudget_flagV (n : Nat) (s : State) : (s.setBudget n).flagV = s.flagV := rfl
@[simp] theorem State.setBudget_flagN (n : Nat) (s : State) : (s.setBudget n).flagN = s.flagN := rfl
@[simp] theorem State.setBudget_mem (n : Nat) (s : State) : (s.setBudget n).mem = s.mem := rfl
@[simp] theorem State.setBudget_budget (n : Nat) (s : State) : (s.setBudget n).budget = n := rfl

end Sys2Proof.Machine
end

