-- ==== Sys2Proof/Laws/Ops.lean ====
section
/-!
SUPPORT. Everything each shared operation does, one lemma for each operation.
-/

namespace Sys2Proof.Machine

/-- `charge` writes the budget only. -/
theorem charge_spec (n : Nat) (s : State) : charge n s = { s with budget := s.budget - n } := rfl

/-- A byte write writes the memory only. -/
theorem memWrite_spec (addr : Word) (v : Byte) (s : State) :
    memWrite addr v s = { s with mem := Memory.write s.mem addr v } := rfl

/-- A word write writes two bytes and the budget. -/
theorem writeWord_spec (addr w : Word) (s : State) :
    writeWord addr w s =
      { s with
        mem := Memory.write (Memory.write s.mem addr (lo8 w)) (addr + 1) (hi8 w)
        budget := s.budget - 2 } := rfl

/-- A byte fetch writes PC and the budget. -/
theorem fetchByte_spec (s : State) :
    fetchByte s = (Memory.read s.mem s.pc, { s with pc := s.pc + 1, budget := s.budget - 1 }) := rfl

/-- A word fetch is two byte fetches, the low byte first. -/
theorem fetchWord_spec (s : State) :
    fetchWord s =
      (wordOf (Memory.read s.mem (s.pc + 1)) (Memory.read s.mem s.pc),
        { s with pc := s.pc + 1 + 1, budget := s.budget - 1 - 1 }) := rfl

/-- A zero-page read writes the budget only. -/
theorem readByte_spec (zp : Byte) (s : State) :
    readByte zp s = (Memory.read s.mem (zeroPageAddr zp), { s with budget := s.budget - 1 }) := rfl

/-- `zext_16` keeps the number. -/
theorem zeroPageAddr_eq_ofNat (zp : Byte) : zeroPageAddr zp = BitVec.ofNat 16 zp.toNat := by
  apply BitVec.eq_of_toNat_eq
  simp [zeroPageAddr]

/-- Z, as a statement about numbers. -/
theorem loadZ_eq_decide (a : Byte) : loadZ a = decide (a.toNat = 0) := by
  rw [Bool.eq_iff_iff]
  simp [loadZ, BitVec.toNat_eq]

/-- N, as a statement about numbers. -/
theorem loadN_eq_decide (a : Byte) : loadN a = decide (128 ≤ a.toNat) :=
  BitVec.msb_eq_decide a

/-- The load flags write Z and N only. -/
theorem computeLoadFlags_spec (s : State) :
    computeLoadFlags s = { s with flagZ := loadZ s.a, flagN := loadN s.a } := rfl

/-- A load writes A, Z and N only. -/
theorem loadAccumulator_spec (v : Byte) (s : State) :
    loadAccumulator v s = { s with a := v, flagZ := loadZ v, flagN := loadN v } := rfl

/-- A push is a word write at SP. -/
theorem pushWord_spec (value : Word) (s : State) : pushWord value s = writeWord s.sp value s := rfl

/-- A byte write keeps the canonical form of the memory. -/
theorem memWrite_wf {s : State} (h : Memory.wf s.mem = true) (addr : Word) (v : Byte) :
    Memory.wf (memWrite addr v s).mem = true :=
  Memory.write_wf h addr v

/-- A word write keeps the canonical form of the memory. -/
theorem writeWord_wf {s : State} (h : Memory.wf s.mem = true) (addr w : Word) :
    Memory.wf (writeWord addr w s).mem = true :=
  Memory.write_wf (Memory.write_wf h addr _) _ _

end Sys2Proof.Machine
end

