-- ==== Sys2Proof/Laws/PerInstr.lean ====
section
/-!
SUPPORT. What holds of every instruction as syntax, one lemma a constructor.
-/

namespace Sys2Proof.Laws.EncodingLength

/-- The encoding has the length of 30_encoding.md R61 and is well formed. -/
def Statement (i : Instr) : Prop := (encode i).length = i.length ∧ wellFormedBytes (encode i) = true

theorem jsr (target : Word) : Statement (.jsr target) := ⟨rfl, rfl⟩

theorem ldaZp (zp : Byte) : Statement (.ldaZp zp) := ⟨rfl, rfl⟩

theorem ldaImm (imm : Byte) : Statement (.ldaImm imm) := ⟨rfl, rfl⟩

end Sys2Proof.Laws.EncodingLength
end

