-- ==== Sys2Proof/Laws/Step.lean ====
section
/-!
SUPPORT. Everything a step can do: one lemma for each branch of the loop (40_engine.md R95), which later proofs cite
instead of unfolding `step`.
-/

namespace Sys2Proof.Machine

/-- The operand fetch of a one-byte format. -/
theorem fetchOperands_oneByte (mk : Byte → Instr) (s : State) :
    fetchOperands (.oneByte mk) s = (mk (fetchByte s).1, (fetchByte s).2) := rfl

/-- The operand fetch of the two-byte format. -/
theorem fetchOperands_twoBytes (mk : Word → Instr) (s : State) :
    fetchOperands (.twoBytes mk) s = (mk (fetchWord s).1, (fetchWord s).2) := rfl

/-- Step 1 of the loop: nothing is fetched. -/
theorem step_of_no_budget {s : State} (hb : s.budget = 0) : step s = stopExhausted s := by
  rw [step, loopIteration, if_pos hb]

/-- Steps 2 and 4 of the loop: an opcode that is not in the table. -/
theorem step_of_unhandled {s : State} (hb : s.budget ≠ 0) (h : decodeOpcode (memRead s.pc s) = none) :
    step s = raiseUnhandled (memRead s.pc s) (fetchByte s).2 := by
  have hop : (fetchByte s).1 = memRead s.pc s := rfl
  simp only [step, loopIteration, if_neg hb, hop, h]

/-- Steps 2 and 3 of the loop: a row of the table. -/
theorem step_of_entry {s : State} {entry : Entry} (hb : s.budget ≠ 0)
    (h : decodeOpcode (memRead s.pc s) = some entry) :
    step s = exec (fetchOperands entry (fetchByte s).2).1 (fetchOperands entry (fetchByte s).2).2 := by
  have hop : (fetchByte s).1 = memRead s.pc s := rfl
  simp only [step, loopIteration, if_neg hb, hop, h]

/-- Placing bytes keeps the canonical form of the memory. -/
theorem placeBytes_wf (bytes : List Byte) (addr : Word) {s : State} (h : Memory.wf s.mem = true) :
    Memory.wf (placeBytes bytes addr s).mem = true := by
  induction bytes generalizing addr s with
  | nil => exact h
  | cons v rest ih => exact ih (addr + 1) (memWrite_wf h addr v)

/-- Placing an instruction keeps the canonical form of the memory. -/
theorem withFetchWord_wf {s : State} (h : Memory.wf s.mem = true) (nbits w : Nat) :
    Memory.wf (s.withFetchWord nbits w).mem = true := by
  have hp := placeBytes_wf (tableBytes nbits w) s.pc h
  simp only [State.withFetchWord, placeInstr]
  split <;> exact hp

end Sys2Proof.Machine
end

