-- ==== Sys2Proof/Laws/Run.lean ====
section
/-!
SUPPORT. One iteration of a run of the machine and of the execute loop, by what its step answers.
-/

namespace Sys2Proof.Machine

theorem core_run_of_next {s t : State} (h : step s = .next t) (k : Nat) :
    Host.Core.run Sys2Proof.core (k + 1) s = Host.Core.run Sys2Proof.core k t := by
  have hc : Sys2Proof.core.step s = .next t := h
  simp only [Host.Core.run, hc]

theorem core_run_of_fault {s : State} {r : Fault} (h : step s = .fault r) (k : Nat) :
    Host.Core.run Sys2Proof.core (k + 1) s = .fault r := by
  have hc : Sys2Proof.core.step s = .fault r := h
  simp only [Host.Core.run, hc]

theorem runLoop_of_next {s t : State} (h : step s = .next t) (fuel : Nat) :
    runLoop (fuel + 1) s = runLoop fuel t := by
  simp only [runLoop, h]

theorem runLoop_of_exhausted {s t : State} (h : step s = .fault (.exhausted t)) (fuel : Nat) :
    runLoop (fuel + 1) s = some ⟨.exhausted, t.budget, t⟩ := by
  simp only [runLoop, h]

theorem runLoop_of_unhandled {s t : State} {op : Byte} (h : step s = .fault (.unhandled op t)) (fuel : Nat) :
    runLoop (fuel + 1) s = some ⟨.unhandled op, t.budget, t⟩ := by
  simp only [runLoop, h]

/-- The host's byte write keeps the canonical form of the memory. -/
theorem hostWriteByte_wf {s : State} (h : Memory.wf s.mem = true) (addr : Word) (v : Byte) :
    Memory.wf (hostWriteByte addr v s).mem = true :=
  memWrite_wf h addr v

/-- The host's reset leaves the memory in canonical form, whatever it was. -/
theorem hostReset_wf (s : State) : Memory.wf (hostReset s).mem = true :=
  Memory.initialize_wf s.mem

end Sys2Proof.Machine
end

