-- ==== Sys2Proof/Tests/Slice0.lean ====
section
/-!
SUPPORT. Tests of the model against the encodings and the vectors of spec/ (95_test_vectors.md, whose numbers are given),
and one witness for each statement that has hypotheses: a concrete state and operands that meet them together.
-/

namespace Sys2Proof.Tests

open Sys2Proof Sys2Proof.Machine

/-- The reset state with PC at `pc`, bytes placed there, and an execute call in progress. -/
def started (pc : Word) (bytes : List Byte) (budget : Nat) : State :=
  ((placeBytes bytes pc State.reset).setPc pc).setBudget budget

/-- The next state's registers and budget: A, PC, SP and the remaining budget. -/
def registersAfter : Host.Outcome State Fault Refusal → Option (Byte × Word × Word × Nat)
  | .next t => some (t.a, t.pc, t.sp, t.budget)
  | _ => none

/-- The next state's flags in the spec's order: C, Z, I, D, B, V, N. -/
def flagsAfter : Host.Outcome State Fault Refusal → Option (List Bool)
  | .next t => some [t.flagC, t.flagZ, t.flagI, t.flagD, t.flagB, t.flagV, t.flagN]
  | _ => none

/-- The next state's byte at an address. -/
def byteAfter (addr : Word) : Host.Outcome State Fault Refusal → Option Byte
  | .next t => some (memRead addr t)
  | _ => none

/-- The opcode, PC and budget of an unhandled-opcode stop. -/
def unhandledStop : Host.Outcome State Fault Refusal → Option (Byte × Word × Nat)
  | .fault (.unhandled op t) => some (op, t.pc, t.budget)
  | _ => none

/-! ### WellFormed: each check refuses an ill-formed term -/

/-- 30_encoding.md R68: 0xEA is no opcode of the table. -/
theorem test_wellFormed_refuses_unhandled_opcode : wellFormedBytes [0xEA] = false := by decide

/-- 30_encoding.md R61: LDA immediate has 2 bytes, not 1. -/
theorem test_wellFormed_refuses_short_bytes : wellFormedBytes [0xA9] = false := by decide

/-- 30_encoding.md R61: JSR has 3 bytes, not 4. -/
theorem test_wellFormed_refuses_long_bytes : wellFormedBytes [0x20, 0x34, 0x12, 0x00] = false := by decide

/-- 30_encoding.md R60: an instruction has an opcode byte. -/
theorem test_wellFormed_refuses_no_bytes : wellFormedBytes [] = false := by decide

theorem test_wellFormed_accepts_each_format :
    wellFormedBytes [0x20, 0x34, 0x12] = true ∧ wellFormedBytes [0xA5, 0x10] = true ∧
    wellFormedBytes [0xA9, 0x42] = true := by decide

/-- 30_encoding.md R69: every operand is legal. -/
theorem test_wellFormed_accepts_extreme_operands :
    Instr.wellFormed (.jsr 0xFFFF) = true ∧ Instr.wellFormed (.ldaZp 0xFF) = true ∧
    Instr.wellFormed (.ldaImm 0xFF) = true := by decide

/-- The memory's form refuses falling addresses, a repeat, a listed 0x00 and an address past the end. -/
theorem test_memory_wf_refuses :
    Memory.wf [(2, 1), (1, 1)] = false ∧ Memory.wf [(1, 1), (1, 2)] = false ∧
    Memory.wf [(1, 0)] = false ∧ Memory.wf [(65536, 1)] = false ∧ Memory.wf [(0, 1), (65535, 2)] = true := by decide

/-! ### Decode: words written bit by bit from 30_encoding.md R62 to R64 -/

theorem test_decode_ldaImm : decode [0b10101001, 0b01000010] = .ok (.ldaImm 0x42, []) := by rfl

theorem test_decode_ldaZp : decode [0b10100101, 0b00010000] = .ok (.ldaZp 0x10, []) := by rfl

/-- The low byte of the target is fetched first (30_encoding.md R64, R65). -/
theorem test_decode_jsr : decode [0b00100000, 0b11001101, 0b10101011] = .ok (.jsr 0xABCD, []) := by rfl

/-- The neighbours of the three opcodes (95_test_vectors.md V43). -/
theorem test_decode_refuses_neighbours :
    [0x1F, 0x21, 0xA4, 0xA6, 0xA8, 0xAA, 0x00, 0xFF].all (fun op => (decodeOpcode op).isNone) = true := by decide

/-- opcode_table.json's numbering: byte 1 is bits 15..8, byte 2 is bits 23..16. -/
theorem test_decodeTableWord_jsr : decodeTableWord 24 0x123420 = some (.jsr 0x1234) := by decide

/-- A row with no bits for its operand bytes has zeros there. -/
theorem test_decodeTableWord_opcode_only :
    decodeTableWord 8 0x20 = some (.jsr 0) ∧ decodeTableWord 8 0xA5 = some (.ldaZp 0) ∧
    decodeTableWord 8 0xA9 = some (.ldaImm 0) ∧ decodeTableWord 8 0xEA = none := by decide

/-! ### Primitives -/

/-- 95_test_vectors.md W2: a byte fetch wraps from 0xFFFF to 0x0000. -/
theorem test_fetchByte_wraps :
    (fetchByte (started 0xFFFF [0x77] 5)).1 = 0x77 ∧ (fetchByte (started 0xFFFF [0x77] 5)).2.pc = 0x0000 ∧
    (fetchByte (started 0xFFFF [0x77] 5)).2.budget = 4 := by decide

/-- 95_test_vectors.md W3. -/
theorem test_fetchWord_little_endian :
    (fetchWord (started 0x0000 [0xCD, 0xAB] 10)).1 = 0xABCD ∧ (fetchWord (started 0x0000 [0xCD, 0xAB] 10)).2.pc = 2 ∧
    (fetchWord (started 0x0000 [0xCD, 0xAB] 10)).2.budget = 8 := by decide

/-- 95_test_vectors.md W4. -/
theorem test_writeWord_little_endian :
    memRead 1000 (writeWord 1000 0xBEEF (started 0 [] 10)) = 0xEF ∧
    memRead 1001 (writeWord 1000 0xBEEF (started 0 [] 10)) = 0xBE ∧
    (writeWord 1000 0xBEEF (started 0 [] 10)).budget = 8 := by decide

/-- 95_test_vectors.md V2, V3, V4: the budget saturates at 0. -/
theorem test_charge_saturates :
    (charge 2 (started 0 [] 1)).budget = 0 ∧ (charge 2 (started 0 [] 5)).budget = 3 ∧
    (charge 2 (charge 1 (started 0 [] 2))).budget = 0 := by decide

/-! ### One step of each instruction, and of an unhandled opcode -/

/-- 95_test_vectors.md V14: operand at 0xFFFF, PC wraps. -/
theorem test_step_ldaImm_wraps :
    registersAfter (step (started 0xFFFE [0xA9, 0x80] 2)) = some (0x80, 0x0000, 0x0100, 0) := by decide

/-- 95_test_vectors.md V17: only Z and N change. -/
theorem test_step_ldaImm_flags :
    flagsAfter (step { started 0x0200 [0xA9, 0x00] 2 with
      flagC := true, flagI := false, flagD := true, flagB := true, flagV := true, flagZ := false, flagN := true }) =
      some [true, true, false, true, true, true, false] := by decide

/-- 95_test_vectors.md V24: it reads its own second byte. -/
theorem test_step_ldaZp_reads_own_byte :
    registersAfter (step (started 0x0000 [0xA5, 0x01] 3)) = some (0x01, 0x0002, 0x0100, 0) := by decide

/-- 95_test_vectors.md V21: address 0x00FF, never 0x01FF; Z is set. -/
theorem test_step_ldaZp_stays_in_page_zero :
    flagsAfter (step (memWrite 0x01FF 0x77 ((started 0x0300 [0xA5, 0xFF] 3).setA 0x33))) =
      some [false, true, true, false, false, false, false] := by decide

/-- 95_test_vectors.md V31: the post-fetch pc is 0x0000, the stored word 0xFFFF. -/
theorem test_step_jsr_return_address_wraps :
    registersAfter (step (started 0xFFFD [0x20, 0x00, 0x05] 6)) = some (0x00, 0x0500, 0x0102, 0) ∧
    byteAfter 0x0100 (step (started 0xFFFD [0x20, 0x00, 0x05] 6)) = some 0xFF ∧
    byteAfter 0x0101 (step (started 0xFFFD [0x20, 0x00, 0x05] 6)) = some 0xFF := by decide

/-- 95_test_vectors.md V34: SP = 0xFFFF, the high byte goes to 0x0000. -/
theorem test_step_jsr_stack_word_wraps :
    registersAfter (step ((started 0x0200 [0x20, 0x00, 0x03] 6).setSp 0xFFFF)) = some (0x00, 0x0300, 0x0001, 0) ∧
    byteAfter 0xFFFF (step ((started 0x0200 [0x20, 0x00, 0x03] 6).setSp 0xFFFF)) = some 0x02 ∧
    byteAfter 0x0000 (step ((started 0x0200 [0x20, 0x00, 0x03] 6).setSp 0xFFFF)) = some 0x02 := by decide

/-- 95_test_vectors.md V40: the opcode byte at 0xFFFF, budget 1. -/
theorem test_step_unhandled_wraps : unhandledStop (step (started 0xFFFF [0xFF] 1)) = some (0xFF, 0x0000, 0) := by decide

/-- 95_test_vectors.md V41: with a budget of 0 the stop is `Exhausted`, whatever byte stands at PC. -/
theorem test_step_exhausted_before_fetch :
    step (started 0x0200 [0xEA] 0) = .fault (.exhausted (started 0x0200 [0xEA] 0)) := by rfl

/-! ### The host's operations -/

/-- 95_test_vectors.md V51: a call from the construction state. -/
theorem test_execute_from_construction :
    (execute 5 State.constructed).map (fun r => (r.outcome, r.remaining, r.final.pc)) =
      some (.unhandled 0x00, 4, 0x0001) := by decide

/-- 95_test_vectors.md V54: `set_a(0)` leaves Z at 0. -/
theorem test_set_a_leaves_z : hostGet .z (hostSetA 0x00 State.reset) = 0 ∧ hostGet .i State.reset = 1 := by decide

/-- 95_test_vectors.md V56: reset erases what was loaded before it. -/
theorem test_reset_erases_memory : hostReadByte 0x0200 (hostReset (hostWriteByte 0x0200 0xA9 State.reset)) = 0x00 := by
  decide

/-- The host's probe: each row's word, placed after reset, is what the first step runs. -/
theorem test_withFetchWord_runs_each_row :
    registersAfter (step (State.reset.withFetchWord 24 0x123420)) = some (0x00, 0x1234, 0x0102, 0) ∧
    registersAfter (step (State.reset.withFetchWord 16 0x10A5)) = some (0x00, 0xFFFE, 0x0100, 3) ∧
    registersAfter (step (State.reset.withFetchWord 16 0x42A9)) = some (0x42, 0xFFFE, 0x0100, 4) := by decide

/-! ### Witnesses: the hypotheses of each statement, met together -/

theorem witness_DecodeFollowsTheDispatchTable :
    ∃ op9 op5 op2 opX : Byte, op9 = 0xA9 ∧ op5 = 0xA5 ∧ op2 = 0x20 ∧ opX = 0x21 ∧ ¬ KnownOpcode opX :=
  ⟨0xA9, 0xA5, 0x20, 0x21, rfl, rfl, rfl, rfl, by decide⟩

theorem witness_DecodeOfEncodeIsTheInstruction : (Instr.jsr 0xFFFF).wellFormed = true := by decide

theorem witness_EncodeOfDecodeIsTheBytes : decode [0x20, 0x34, 0x12, 0xEA] = .ok (.jsr 0x1234, [0xEA]) := by rfl

theorem witness_OpcodeAloneFixesTheLength :
    decode (0xA5 :: [0xFF]) = .ok (.ldaZp 0xFF, []) ∧
    (opcodeLength 0x20 = some 3 ∧ 3 ≤ [(0x34 : Byte), 0x12].length + 1) := ⟨rfl, by decide⟩

theorem witness_ReadReturnsTheLatestWrite : Memory.wf [(0x10, 0x01), (0xFFFF, 0x02)] = true := by decide

theorem witness_MemoriesWithEqualBytesAreEqual :
    Memory.wf [(0xFFFF, 0x02)] = true ∧ Memory.wf (Memory.write [] 0xFFFF 0x02) = true ∧
    ∀ addr : Word, Memory.read [(0xFFFF, 0x02)] addr = Memory.read (Memory.write [] 0xFFFF 0x02) addr :=
  ⟨rfl, rfl, fun _ => rfl⟩

theorem witness_ZeroFillOfEveryAddressIsInitialize :
    Memory.wf [(0x10, 0x01)] = true ∧ ∀ addr : Word, addr ∈ (List.range 65536).map (BitVec.ofNat 16) :=
  ⟨rfl, fun addr => List.mem_map.mpr ⟨addr.toNat, List.mem_range.mpr addr.isLt, by simp⟩⟩

/-- The low byte at 0xFFFF and the high byte at 0x0000, in a state with memory listed. -/
theorem witness_WordWriteStoresLowByteAndHighByte :
    Inv (started 0x0200 [0x20, 0x00, 0x03] 6) ∧ (0x0200 : Word) ≠ 0xFFFF ∧ (0x0200 : Word) ≠ 0xFFFF + 1 := by decide

theorem witness_WrittenWordIsFetchedUnchanged : Inv (started 0xFFFF [0x20, 0x00, 0x03] 6) := by decide

theorem witness_LoadsChangeOnlyAccumulatorAndItsFlags :
    (∃ t, exec (.ldaZp 0xFF) (started 0x0302 [] 2) = .next t) ∧
    (∃ t, exec (.ldaImm 0x80) (started 0x0302 [] 1) = .next t) := ⟨⟨_, rfl⟩, ⟨_, rfl⟩⟩

theorem witness_JsrChangesOnlySpAndTheStackWord :
    ∃ t, exec (.jsr 0x0300) ((started 0x0203 [] 3).setSp 0xFFFF) = .next t ∧
      stackAddr ((started 0x0203 [] 3).setSp 0xFFFF) = 0xFFFF ∧ (0x0001 : Word) ≠ 0xFFFF ∧ (0x0001 : Word) ≠ 0xFFFF + 1 :=
  ⟨_, rfl, rfl, by decide, by decide⟩

theorem witness_StackWordReadsBackAsReturnAddress :
    Inv (started 0x0000 [0x20] 3) ∧ ∃ t, exec (.jsr 0x0500) (started 0x0000 [0x20] 3) = .next t :=
  ⟨by decide, _, rfl⟩

/-- 95_test_vectors.md V37's call to itself, with SP where the first stack word ends at 0xFFFF and the second wraps. -/
theorem witness_SuccessiveCallsFillIncreasingAddresses :
    Inv ((started 0x0200 [0x20, 0x00, 0x02] 12).setSp 0xFFFE) ∧
    memRead 0x0200 ((started 0x0200 [0x20, 0x00, 0x02] 12).setSp 0xFFFE) = 0x20 ∧
    ∃ t u, step ((started 0x0200 [0x20, 0x00, 0x02] 12).setSp 0xFFFE) = .next t ∧ memRead t.pc t = 0x20 ∧
      step t = .next u :=
  ⟨by decide, by decide, _, _, rfl, rfl, rfl⟩

theorem witness_LoadReadsBackACallsStackWord :
    Inv ((started 0x0203 [0x20] 6).setSp 0x00FF) ∧
    stackAddr ((started 0x0203 [0x20] 6).setSp 0x00FF) = zeroPageAddr 0xFF ∧
    ∃ t, exec (.jsr 0x0300) ((started 0x0203 [0x20] 6).setSp 0x00FF) = .next t :=
  ⟨by decide, by decide, _, rfl⟩

theorem witness_StepRunsTheDecodedInstruction :
    (started 0xFFFE [0x20, 0x34, 0x12] 1).budget ≠ 0 ∧
    decode (bytesAt (started 0xFFFE [0x20, 0x34, 0x12] 1).mem (started 0xFFFE [0x20, 0x34, 0x12] 1).pc 3) =
      .ok (.jsr 0x1234, []) := ⟨by decide, rfl⟩

theorem witness_PlacedInstructionIsTheOneTheStepRuns :
    Inv (started 0xFFFF [0x77] 0) ∧
    (started 0xFFFF [0x77] 0).withFetchWord 24 0x123420 =
      (started 0xFFFF [0x77] 0).withFetchWord (8 * (Instr.jsr 0x1234).length) (tableNumber (encode (.jsr 0x1234))) := by
  decide

theorem witness_StepOfLdaImmediate :
    (started 0xFFFF [0xA9, 0x55] 1).budget ≠ 0 ∧
    memRead (started 0xFFFF [0xA9, 0x55] 1).pc (started 0xFFFF [0xA9, 0x55] 1) = 0xA9 := by decide

theorem witness_StepOfLdaZeroPage :
    (started 0xFFFF [0xA5, 0xFF] 2).budget ≠ 0 ∧
    memRead (started 0xFFFF [0xA5, 0xFF] 2).pc (started 0xFFFF [0xA5, 0xFF] 2) = 0xA5 ∧
    (0x00 : Byte) = memRead (BitVec.ofNat 16
      (memRead ((started 0xFFFF [0xA5, 0xFF] 2).pc + 1) (started 0xFFFF [0xA5, 0xFF] 2)).toNat)
      (started 0xFFFF [0xA5, 0xFF] 2) := by decide

theorem witness_StepOfJsr :
    (started 0xFFFD [0x20, 0x00, 0x05] 5).budget ≠ 0 ∧
    memRead (started 0xFFFD [0x20, 0x00, 0x05] 5).pc (started 0xFFFD [0x20, 0x00, 0x05] 5) = 0x20 := by decide

/-- Each side of the equivalence is met, at budget 0 and, for the other stop and for completion, at budget 1. -/
theorem witness_ExhaustedExactlyAtZeroBudget :
    ∃ t, step (started 0x0200 [0xA9, 0x42] 0) = .fault (.exhausted t) := ⟨_, rfl⟩

theorem witness_UnhandledExactlyOnUnknownOpcode :
    ∃ t, step (started 0xFFFF [0xFF] 1) = .fault (.unhandled 0xFF t) := ⟨_, rfl⟩

theorem witness_KnownOpcodeWithBudgetAlwaysCompletes :
    (started 0x0200 [0x20, 0x00, 0x03] 1).budget ≠ 0 ∧
    KnownOpcode (memRead (started 0x0200 [0x20, 0x00, 0x03] 1).pc (started 0x0200 [0x20, 0x00, 0x03] 1)) := by decide

/-- Each clause, with a budget below the cost. -/
theorem witness_StepChargesTheTablesCost :
    (∃ t, step (started 0x0200 [0xA9, 0x42] 1) = .next t) ∧
    memRead (started 0x0200 [0xA9, 0x42] 1).pc (started 0x0200 [0xA9, 0x42] 1) = 0xA9 ∧
    (∃ t, step (started 0x0200 [0xA5, 0x42] 2) = .next t) ∧
    memRead (started 0x0200 [0xA5, 0x42] 2).pc (started 0x0200 [0xA5, 0x42] 2) = 0xA5 ∧
    (∃ t, step (started 0x0200 [0x20, 0x42] 5) = .next t) ∧
    memRead (started 0x0200 [0x20, 0x42] 5).pc (started 0x0200 [0x20, 0x42] 5) = 0x20 ∧
    (∃ t, step (started 0x0200 [0xA6, 0x42] 1) = .fault (.unhandled 0xA6 t)) ∧
    ¬ KnownOpcode (memRead (started 0x0200 [0xA6, 0x42] 1).pc (started 0x0200 [0xA6, 0x42] 1)) :=
  ⟨⟨_, rfl⟩, rfl, ⟨_, rfl⟩, rfl, ⟨_, rfl⟩, rfl, ⟨_, rfl⟩, by decide⟩

theorem witness_StepKeepsMemoryCanonical :
    Inv (started 0x0200 [0x20, 0x00, 0x03] 6) ∧ ∃ t, step (started 0x0200 [0x20, 0x00, 0x03] 6) = .next t :=
  ⟨by decide, _, rfl⟩

/-- Both clauses: a load, and a call whose stack word wraps, with an address outside it. -/
theorem witness_StepsWriteOnlyWhatTheAccessMatrixSays :
    (∃ t, step (started 0x0200 [0xA9, 0x42] 2) = .next t) ∧
    memRead (started 0x0200 [0xA9, 0x42] 2).pc (started 0x0200 [0xA9, 0x42] 2) ≠ 0x20 ∧
    (∃ t, step ((started 0x0200 [0x20, 0x00, 0x03] 6).setSp 0xFFFF) = .next t) ∧
    memRead (started 0x0200 [0x20, 0x00, 0x03] 6).pc (started 0x0200 [0x20, 0x00, 0x03] 6) = 0x20 ∧
    (0x0001 : Word) ≠ stackAddr ((started 0x0200 [0x20, 0x00, 0x03] 6).setSp 0xFFFF) ∧
    (0x0001 : Word) ≠ stackAddr ((started 0x0200 [0x20, 0x00, 0x03] 6).setSp 0xFFFF) + 1 :=
  ⟨⟨_, rfl⟩, by decide, ⟨_, rfl⟩, rfl, by decide, by decide⟩

theorem witness_CallIntoItsStackWordFetchesTheStoredByte :
    ∃ t, Inv (started 0x0200 [0x20, 0x00, 0x01] 6) ∧ step (started 0x0200 [0x20, 0x00, 0x01] 6) = .next t ∧
      memRead (started 0x0200 [0x20, 0x00, 0x01] 6).pc (started 0x0200 [0x20, 0x00, 0x01] 6) = 0x20 ∧
      t.pc = (started 0x0200 [0x20, 0x00, 0x01] 6).sp :=
  ⟨_, by decide, rfl, rfl, rfl⟩

theorem witness_ExhaustedCallReportsZeroBudget :
    ∃ r, execute 2 (started 0x0200 [0xA9, 0x42] 0) = some r ∧ r.outcome = .exhausted := ⟨_, rfl, rfl⟩

theorem witness_UnhandledCallStopsJustPastTheOpcode :
    ∃ r, execute 3 (started 0x0200 [0xA9, 0x42] 0) = some r ∧ r.outcome = .unhandled 0x00 := ⟨_, rfl, rfl⟩

theorem witness_ExecuteResumesFromAnyIntermediateState :
    ∃ t, step ((started 0x0200 [0xA9, 0x42] 0).setBudget 3) = .next t ∧
      Host.Core.run Sys2Proof.core 1 ((started 0x0200 [0xA9, 0x42] 0).setBudget 3) = .next t := ⟨_, rfl, rfl⟩

theorem witness_ReachableStatesKeepTheirValues :
    Reachable (hostApply (.execute 6) (hostApply (.setPc 0x0200) (hostApply .reset State.constructed))) :=
  .apply _ _ (.apply _ _ (.apply _ _ .constructed))

end Sys2Proof.Tests
end

section
/-!
The values at construction and after reset (10_state.md R34, R35).
-/

namespace Sys2Proof.Machine

/-- Over a memory that lists no cell every address reads 0x00, as right after `initialize()` (20_memory.md R59). -/
theorem memRead_of_mem_nil {s : State} (h : s.mem = []) (addr : Word) : memRead addr s = 0x00 := by
  rw [memRead, h]
  exact Memory.read_initialize s.mem addr

/-- Settles O40: the registers and flags are literals of the construction state, and its memory lists no cell. -/
theorem constructionIsAllZero : Obligations.ConstructionIsAllZero :=
  ⟨rfl, rfl, rfl, rfl, rfl, rfl, rfl, rfl, rfl, rfl, rfl, rfl, memRead_of_mem_nil rfl⟩

/-- Settles O41: the registers and flags are literals of the reset state, and its memory lists no cell. -/
theorem resetStateHoldsTheResetValues : Obligations.ResetStateHoldsTheResetValues :=
  ⟨rfl, rfl, rfl, rfl, rfl, rfl, rfl, rfl, rfl, rfl, rfl, rfl, memRead_of_mem_nil rfl⟩

end Sys2Proof.Machine
end

section
/-!
The word write (20_memory.md R44) as later reads see it.
-/

namespace Sys2Proof.Machine

/-- The two bytes of a word have different addresses, at 0xFFFF too (20_memory.md R44). -/
theorem addr_add_one_ne (addr : Word) : addr + 1 ≠ addr := by
  simp

/-- The low byte stands at the written address: the write of the high byte goes elsewhere. -/
theorem memRead_writeWord_low {s : State} (h : Inv s) (addr w : Word) :
    memRead addr (writeWord addr w s) = lo8 w :=
  (Memory.read_write_other (addr_add_one_ne addr).symm _).trans (Memory.read_write_self h addr _)

/-- The high byte stands at the next address, which is 0x0000 after 0xFFFF. -/
theorem memRead_writeWord_high {s : State} (h : Inv s) (addr w : Word) :
    memRead (addr + 1) (writeWord addr w s) = hi8 w :=
  Memory.read_write_self (Memory.write_wf h addr _) _ _

/-- A word write leaves every byte beside its two, in any memory. -/
theorem memRead_writeWord_other {addr b : Word} (hlow : b ≠ addr) (hhigh : b ≠ addr + 1) (w : Word) (s : State) :
    memRead b (writeWord addr w s) = memRead b s :=
  (Memory.read_write_other hhigh _).trans (Memory.read_write_other hlow _)

/-- Settles O10: each half is read back as the number R44 says, and the rest is the operation's frame. -/
theorem wordWriteStoresLowByteAndHighByte : Obligations.WordWriteStoresLowByteAndHighByte := by
  intro addr w s h
  refine ⟨?low, ?high, ?others, ?frame⟩
  case low => rw [memRead_writeWord_low h, lo8_toNat]
  case high => rw [memRead_writeWord_high h, hi8_toNat]
  case others => exact fun b hlow hhigh => memRead_writeWord_other hlow hhigh w s
  case frame => exact writeWord_spec addr w s

end Sys2Proof.Machine
end

section
/-!
The three completed steps, as whole next states, and that there are no others (41_load.md R111, R112; 42_subroutine.md
R120).
-/

namespace Sys2Proof.Machine

/-- The state after a load of `v` that costs `cost` cycles (41_load.md R111, R112). -/
def State.afterLoad (v : Byte) (cost : Nat) (s : State) : State :=
  { s with a := v, pc := s.pc + 2, flagZ := loadZ v, flagN := loadN v, budget := s.budget - cost }

/-- The state after a call (42_subroutine.md R120): the word stored is the address of the instruction's last byte. -/
def State.afterCall (s : State) : State :=
  { s with
    mem := (writeWord s.sp (s.pc + 2) s).mem
    pc := wordOf (memRead (s.pc + 2) s) (memRead (s.pc + 1) s)
    sp := s.sp + 2
    budget := s.budget - 6 }

/-- LDA immediate, after its fetch. -/
theorem exec_ldaImm (imm : Byte) (s : State) : exec (.ldaImm imm) s = .next (loadAccumulator imm s) := rfl

/-- LDA zero-page, after its fetch. -/
theorem exec_ldaZp (zp : Byte) (s : State) :
    exec (.ldaZp zp) s = .next (loadAccumulator (memRead (zeroPageAddr zp) s) (charge 1 s)) := rfl

/-- JSR, after its fetch. -/
theorem exec_jsr (target : Word) (s : State) :
    exec (.jsr target) s =
      .next (charge 1 (((writeWord s.sp (s.pc - 1) s).setPc target).setSp (s.sp + 2))) := rfl

/-- PC after an opcode and one operand byte. -/
theorem pc_add_one_add_one (pc : Word) : pc + 1 + 1 = pc + 2 :=
  BitVec.add_assoc pc 1 1

/-- The step of an LDA immediate. -/
theorem step_of_ldaImm {s : State} (hb : s.budget ≠ 0) (hop : memRead s.pc s = 0xA9) :
    step s = .next (s.afterLoad (memRead (s.pc + 1) s) 2) := by
  rw [step_of_entry hb (hop ▸ decodeOpcode_ldaImm), fetchOperands_oneByte, exec_ldaImm]
  simp only [fetchByte_spec, loadAccumulator_spec, State.afterLoad, memRead, pc_add_one_add_one, Nat.sub_sub]

/-- The step of an LDA zero-page. -/
theorem step_of_ldaZp {s : State} (hb : s.budget ≠ 0) (hop : memRead s.pc s = 0xA5) :
    step s = .next (s.afterLoad (memRead (zeroPageAddr (memRead (s.pc + 1) s)) s) 3) := by
  rw [step_of_entry hb (hop ▸ decodeOpcode_ldaZp), fetchOperands_oneByte, exec_ldaZp]
  simp only [fetchByte_spec, charge_spec, loadAccumulator_spec, State.afterLoad, memRead, pc_add_one_add_one,
    Nat.sub_sub]

/-- The step of a JSR. -/
theorem step_of_jsr {s : State} (hb : s.budget ≠ 0) (hop : memRead s.pc s = 0x20) :
    step s = .next s.afterCall := by
  rw [step_of_entry hb (hop ▸ decodeOpcode_jsr), fetchOperands_twoBytes, exec_jsr]
  simp only [fetchByte_spec, fetchWord_spec, charge_spec, writeWord_spec, State.setPc, State.setSp, State.afterCall,
    memRead, pc_add_one_add_one, BitVec.add_sub_cancel, Nat.sub_sub]

/-- Everything a step that answers a next state can have done: the budget let it start, and it ran one of the three
instructions. -/
theorem step_next_cases {s t : State} (h : step s = .next t) :
    s.budget ≠ 0 ∧
    ((memRead s.pc s = 0xA9 ∧ t = s.afterLoad (memRead (s.pc + 1) s) 2) ∨
     (memRead s.pc s = 0xA5 ∧ t = s.afterLoad (memRead (zeroPageAddr (memRead (s.pc + 1) s)) s) 3) ∨
     (memRead s.pc s = 0x20 ∧ t = s.afterCall)) := by
  have hb : s.budget ≠ 0 := fun hb => nomatch (step_of_no_budget hb).symm.trans h
  refine ⟨hb, ?_⟩
  obtain ⟨hop, -⟩ | ⟨hop, -⟩ | ⟨hop, -⟩ | ⟨-, -, -, hnone⟩ := decodeOpcode_cases (memRead s.pc s)
  · exact .inl ⟨hop, Host.Outcome.next.inj (h.symm.trans (step_of_ldaImm hb hop))⟩
  · exact .inr (.inl ⟨hop, Host.Outcome.next.inj (h.symm.trans (step_of_ldaZp hb hop))⟩)
  · exact .inr (.inr ⟨hop, Host.Outcome.next.inj (h.symm.trans (step_of_jsr hb hop))⟩)
  · exact nomatch (step_of_unhandled hb hnone).symm.trans h

/-- The same with the two loads as one case: what they load and what it costs is left open. -/
theorem step_next_load_or_call {s t : State} (h : step s = .next t) :
    (memRead s.pc s ≠ 0x20 ∧ ∃ v cost, t = s.afterLoad v cost) ∨ (memRead s.pc s = 0x20 ∧ t = s.afterCall) := by
  obtain ⟨-, ⟨hop, ht⟩ | ⟨hop, ht⟩ | hcall⟩ := step_next_cases h
  · exact .inl ⟨by simp [hop], _, _, ht⟩
  · exact .inl ⟨by simp [hop], _, _, ht⟩
  · exact .inr hcall

@[simp] theorem State.afterLoad_sp (v : Byte) (cost : Nat) (s : State) : (s.afterLoad v cost).sp = s.sp := rfl
@[simp] theorem State.afterLoad_bystanders (v : Byte) (cost : Nat) (s : State) :
    (s.afterLoad v cost).bystanders = s.bystanders := rfl

@[simp] theorem State.afterCall_sp (s : State) : s.afterCall.sp = s.sp + 2 := rfl
@[simp] theorem State.afterCall_a (s : State) : s.afterCall.a = s.a := rfl
@[simp] theorem State.afterCall_flagZ (s : State) : s.afterCall.flagZ = s.flagZ := rfl
@[simp] theorem State.afterCall_flagN (s : State) : s.afterCall.flagN = s.flagN := rfl
@[simp] theorem State.afterCall_bystanders (s : State) : s.afterCall.bystanders = s.bystanders := rfl

/-- A load leaves every byte of memory. -/
theorem memRead_afterLoad (b : Word) (v : Byte) (cost : Nat) (s : State) :
    memRead b (s.afterLoad v cost) = memRead b s := rfl

/-- After a call memory reads as after the word write at SP. -/
theorem memRead_afterCall (b : Word) (s : State) :
    memRead b s.afterCall = memRead b (writeWord (stackAddr s) (s.pc + 2) s) := rfl

/-- Settles O37: a load writes neither SP nor memory; a call writes SP and, by the frame of the word write, no byte
beside the stack word; neither writes a bystander. -/
theorem stepsWriteOnlyWhatTheAccessMatrixSays : Obligations.StepsWriteOnlyWhatTheAccessMatrixSays := by
  intro s t h
  obtain ⟨hop, v, cost, rfl⟩ | ⟨hop, rfl⟩ := step_next_load_or_call h
  · exact ⟨s.afterLoad_bystanders v cost, fun _ => ⟨s.afterLoad_sp v cost, fun b => memRead_afterLoad b v cost s⟩,
      fun hcall => absurd hcall hop⟩
  · refine ⟨s.afterCall_bystanders, fun hload => absurd hop hload, fun _ => ?_⟩
    refine ⟨s.afterCall_sp, s.afterCall_a, s.afterCall_flagZ, s.afterCall_flagN, fun b hlow hhigh => ?_⟩
    rw [memRead_afterCall, memRead_writeWord_other hlow hhigh]

end Sys2Proof.Machine
end

section
/-!
The byte list decoder, row by row of the dispatch table and on every other byte (30_encoding.md R62 to R65, R67, R68).
-/

namespace Sys2Proof.Machine

/-- Format IMM8 (R62). -/
theorem decode_ldaImm (imm : Byte) (rest : List Byte) : decode (0xA9 :: imm :: rest) = .ok (.ldaImm imm, rest) :=
  decode_of_entry decodeOpcode_ldaImm _

/-- Format ZP8 (R63). -/
theorem decode_ldaZp (zp : Byte) (rest : List Byte) : decode (0xA5 :: zp :: rest) = .ok (.ldaZp zp, rest) :=
  decode_of_entry decodeOpcode_ldaZp _

/-- Format ABS16 (R64): the low byte comes first. -/
theorem decode_jsr (lo hi : Byte) (rest : List Byte) :
    decode (0x20 :: lo :: hi :: rest) = .ok (.jsr (wordOf hi lo), rest) :=
  decode_of_entry decodeOpcode_jsr _

/-- A byte outside the three opcodes has no row (R68). -/
theorem decodeOpcode_of_not_knownOpcode {op : Byte} (h : ¬ KnownOpcode op) : decodeOpcode op = none := by
  obtain ⟨h2, h5, h9⟩ := not_or.mp h |>.imp_right not_or.mp
  exact decodeOpcode_unhandled h9 h5 h2

/-- Settles O2: each row's format reads its operand bytes, and a byte without a row is refused whatever follows. -/
theorem decodeFollowsTheDispatchTable : Obligations.DecodeFollowsTheDispatchTable := by
  intro op b1 b2 rest
  refine ⟨?ldaImm, ?ldaZp, ?jsr, ?unhandled⟩
  case ldaImm => rintro rfl; exact decode_ldaImm b1 (b2 :: rest)
  case ldaZp => rintro rfl; exact decode_ldaZp b1 (b2 :: rest)
  case jsr => rintro rfl; exact decode_jsr b1 b2 rest
  case unhandled => exact fun h => decode_of_unhandled (decodeOpcode_of_not_knownOpcode h) (b1 :: b2 :: rest)

end Sys2Proof.Machine
end

section
/-!
The fetch primitives, the zero-page read and the load flags of the engine (40_engine.md R82, R83, R84, R86).
-/

namespace Sys2Proof.Machine

/-- R83's composition: the second byte fetch runs on the state the first one left. -/
theorem fetchWord_eq_two_fetchByte (s : State) :
    fetchWord s = (wordOf (fetchByte (fetchByte s).2).1 (fetchByte s).1, (fetchByte (fetchByte s).2).2) := rfl

/-- The net effect of two byte fetches: both advances of PC and both charges add up. -/
theorem fetchWord_state (s : State) : (fetchWord s).2 = { s with pc := s.pc + 2, budget := s.budget - 2 } := by
  rw [fetchWord_spec, pc_add_one_add_one, Nat.sub_sub]

/-- Settles O14: the value is the two fetched bytes as one number, the high byte fetched second. -/
theorem fetchWordIsTwoByteFetches : Obligations.FetchWordIsTwoByteFetches := by
  intro s
  refine ⟨?value, ?composition, ?net⟩
  case value => rw [fetchWord_eq_two_fetchByte, wordOf_toNat, Nat.mul_comm]
  case composition => rw [fetchWord_eq_two_fetchByte]
  case net => exact fetchWord_state s

/-- Settles O13: the addition on `Word` is the one modulo 65536, and the rest is the operation's frame. -/
theorem fetchByteAdvancesPcAndCharges : Obligations.FetchByteAdvancesPcAndCharges := by
  intro s
  refine ⟨?value, ?advance, ?frame⟩
  case value => rw [fetchByte_spec, memRead]
  case advance =>
    rw [fetchByte_spec]
    exact BitVec.toNat_add s.pc 1
  case frame => rw [fetchByte_spec]

/-- Settles O15: zero extension keeps the number of the address, and only the budget is written. -/
theorem zeroPageReadLeavesPcUnchanged : Obligations.ZeroPageReadLeavesPcUnchanged := by
  intro zp s
  refine ⟨?value, ?frame⟩
  case value => rw [readByte_spec, zeroPageAddr_eq_ofNat, memRead]
  case frame => rw [readByte_spec]

/-- Settles O16: each flag is its condition on A as a number, and only the two flags are written. -/
theorem loadFlagsFollowTheAccumulator : Obligations.LoadFlagsFollowTheAccumulator := by
  intro s
  rw [computeLoadFlags_spec]
  refine ⟨?zero, ?negative, ?frame⟩
  case zero => rw [loadZ_eq_decide, decide_eq_true_iff]
  case negative => rw [loadN_eq_decide, decide_eq_true_iff]
  case frame => rfl

end Sys2Proof.Machine
end

section
/-!
The net effects of the two loads from the opcode's address, in the spec's terms (41_load.md R111, R112).
-/

namespace Sys2Proof.Machine

/-- The Z condition in the shape of R111 and R112: `A == 0` on the byte itself. -/
theorem loadZ_eq_decide_eq_zero (v : Byte) : loadZ v = decide (v = 0) :=
  beq_eq_decide v 0

/-- The N condition in the shape of R111 and R112: `A[7]`. -/
theorem loadN_eq_getLsbD (v : Byte) : loadN v = v.getLsbD 7 := rfl

/-- The state after a load, field by field: the lines R111 and R112 share. -/
theorem State.afterLoad_spec (v : Byte) (cost : Nat) (s : State) :
    s.afterLoad v cost =
      { s with
        a := v
        pc := s.pc + 2
        flagZ := decide (v = 0)
        flagN := v.getLsbD 7
        budget := s.budget - cost } := by
  rw [State.afterLoad, loadZ_eq_decide_eq_zero, loadN_eq_getLsbD]

/-- Settles O27: the step is a load of the operand byte that costs 2. -/
theorem stepOfLdaImmediate : Obligations.StepOfLdaImmediate := by
  intro s hb hop
  rw [step_of_ldaImm hb hop, State.afterLoad_spec]

/-- Settles O28: the step is a load that costs 3, of the byte at the operand's zero-extended address. -/
theorem stepOfLdaZeroPage : Obligations.StepOfLdaZeroPage := by
  rintro s v hb hop rfl
  rw [step_of_ldaZp hb hop, State.afterLoad_spec, zeroPageAddr_eq_ofNat]

end Sys2Proof.Machine
end

section
/-!
Jump-to-subroutine from the opcode's address, once and twice in a row (42_subroutine.md R120, R121, R122).
-/

namespace Sys2Proof.Machine

/-- The state after a call, in the lines of R120: the two bytes stored, the target out of its two bytes, SP and the
budget. -/
theorem State.afterCall_spec (s : State) :
    s.afterCall =
      { s with
        mem := Memory.write (Memory.write s.mem s.sp (lo8 (s.pc + 2))) (s.sp + 1) (hi8 (s.pc + 2))
        pc := memRead (s.pc + 2) s ++ memRead (s.pc + 1) s
        sp := s.sp + 2
        budget := s.budget - 6 } := by
  rw [State.afterCall, writeWord_spec, wordOf]

/-- Settles O29: the step is a call. -/
theorem stepOfJsr : Obligations.StepOfJsr := by
  intro s hb hop
  rw [step_of_jsr hb hop, State.afterCall_spec]

/-- A completed step of the opcode 0x20 is a call. -/
theorem eq_afterCall_of_step {s t : State} (hop : memRead s.pc s = 0x20) (h : step s = .next t) : t = s.afterCall := by
  obtain ⟨hload, -⟩ | ⟨-, ht⟩ := step_next_load_or_call h
  · exact absurd hop hload
  · exact ht

/-- A call keeps the canonical form of the memory. -/
theorem State.afterCall_inv {s : State} (h : Inv s) : Inv s.afterCall :=
  writeWord_wf h s.sp (s.pc + 2)

/-- The next stack word begins just above the two bytes of this one (R122). -/
@[simp] theorem stackAddr_afterCall (s : State) : stackAddr s.afterCall = stackAddr s + 2 := rfl

/-- The low byte of the call's stack word (R121). -/
theorem memRead_afterCall_low {s : State} (h : Inv s) : memRead (stackAddr s) s.afterCall = lo8 (s.pc + 2) := by
  rw [memRead_afterCall, memRead_writeWord_low h]

/-- The high byte of the call's stack word (R121). -/
theorem memRead_afterCall_high {s : State} (h : Inv s) : memRead (stackAddr s + 1) s.afterCall = hi8 (s.pc + 2) := by
  rw [memRead_afterCall, memRead_writeWord_high h]

/-- A call leaves every byte beside its stack word. -/
theorem memRead_afterCall_other {s : State} {b : Word} (hlow : b ≠ stackAddr s) (hhigh : b ≠ stackAddr s + 1) :
    memRead b s.afterCall = memRead b s := by
  rw [memRead_afterCall, memRead_writeWord_other hlow hhigh]

/-- The stack words of two calls in a row share no byte, so the second leaves the first's low byte. -/
theorem memRead_afterCall_afterCall_low {s : State} (h : Inv s) :
    memRead (stackAddr s) s.afterCall.afterCall = lo8 (s.pc + 2) := by
  have hlow : stackAddr s ≠ stackAddr s + 2 := by bv_omega
  have hhigh : stackAddr s ≠ stackAddr s + 2 + 1 := by bv_omega
  rw [memRead_afterCall_other hlow hhigh, memRead_afterCall_low h]

/-- Nor does the second write the first's high byte. -/
theorem memRead_afterCall_afterCall_high {s : State} (h : Inv s) :
    memRead (stackAddr s + 1) s.afterCall.afterCall = hi8 (s.pc + 2) := by
  have hlow : stackAddr s + 1 ≠ stackAddr s + 2 := by bv_omega
  have hhigh : stackAddr s + 1 ≠ stackAddr s + 2 + 1 := by bv_omega
  rw [memRead_afterCall_other hlow hhigh, memRead_afterCall_high h]

/-- Settles O23: both steps are calls; the first's word survives the second, whose own word stands 2 above it. -/
theorem successiveCallsFillIncreasingAddresses : Obligations.SuccessiveCallsFillIncreasingAddresses := by
  intro s t u hinv hops hst hopt htu
  obtain rfl := eq_afterCall_of_step hops hst
  obtain rfl := eq_afterCall_of_step hopt htu
  have hinv' := State.afterCall_inv hinv
  refine ⟨?first, ?second, ?low, ?high, ?nextLow, ?nextHigh⟩
  case first => exact stackAddr_afterCall s
  case second => rw [stackAddr_afterCall, stackAddr_afterCall]; exact BitVec.add_assoc (stackAddr s) 2 2
  case low => exact memRead_afterCall_afterCall_low hinv
  case high => exact memRead_afterCall_afterCall_high hinv
  case nextLow => exact memRead_afterCall_low hinv'
  case nextHigh =>
    have haddr : stackAddr s + 3 = stackAddr s.afterCall + 1 := (BitVec.add_assoc (stackAddr s) 2 1).symm
    rw [haddr, memRead_afterCall_high hinv']

end Sys2Proof.Machine
end

section
/-!
The unhandled-opcode stop: when a step ends in it, and the state it leaves (60_exceptions.md R130, R131).
-/

namespace Sys2Proof.Machine

/-- The step of an unhandled opcode: only the opcode fetch has happened (R131). -/
theorem step_of_not_knownOpcode {s : State} (hb : s.budget ≠ 0) (hop : ¬ KnownOpcode (memRead s.pc s)) :
    step s = .fault (.unhandled (memRead s.pc s) { s with pc := s.pc + 1, budget := s.budget - 1 }) := by
  rw [step_of_unhandled hb (decodeOpcode_of_not_knownOpcode hop), raiseUnhandled, fetchByte_spec]

/-- An instruction of the table, once the budget lets it start, completes (R134). -/
theorem exists_step_next_of_knownOpcode {s : State} (hb : s.budget ≠ 0) (hop : KnownOpcode (memRead s.pc s)) :
    ∃ t, step s = .next t := by
  obtain hjsr | hldaZp | hldaImm := hop
  · exact ⟨_, step_of_jsr hb hjsr⟩
  · exact ⟨_, step_of_ldaZp hb hldaZp⟩
  · exact ⟨_, step_of_ldaImm hb hldaImm⟩

/-- A step that stops unhandled got past the budget test and fetched an opcode that is not in the table. -/
theorem budget_and_opcode_of_step_unhandled {s t : State} {op : Byte} (h : step s = .fault (.unhandled op t)) :
    s.budget ≠ 0 ∧ ¬ KnownOpcode (memRead s.pc s) := by
  have hb : s.budget ≠ 0 := fun hb => nomatch (step_of_no_budget hb).symm.trans h
  refine ⟨hb, fun hop => ?_⟩
  obtain ⟨u, hu⟩ := exists_step_next_of_knownOpcode hb hop
  exact nomatch hu.symm.trans h

/-- Settles O31: the other two ends of a step are excluded, and the step of an unhandled opcode fixes the byte and the
state. -/
theorem unhandledExactlyOnUnknownOpcode : Obligations.UnhandledExactlyOnUnknownOpcode := by
  intro s t op
  constructor
  · intro h
    obtain ⟨hb, hop⟩ := budget_and_opcode_of_step_unhandled h
    obtain ⟨rfl, rfl⟩ := Fault.unhandled.inj (Host.Outcome.fault.inj (h.symm.trans (step_of_not_knownOpcode hb hop)))
    exact ⟨hb, rfl, hop, rfl⟩
  · rintro ⟨hb, rfl, hop, rfl⟩
    exact step_of_not_knownOpcode hb hop

end Sys2Proof.Machine
end

section
/-!
The cost a step charges, by the opcode it fetches (70_reset_and_hazards.md R160), and that it is never 0 (40_engine.md
R93).
-/

namespace Sys2Proof.Machine

@[simp] theorem cycleCost_ldaImm : cycleCost 0xA9 = 2 := rfl
@[simp] theorem cycleCost_ldaZp : cycleCost 0xA5 = 3 := rfl
@[simp] theorem cycleCost_jsr : cycleCost 0x20 = 6 := rfl

/-- An opcode that is not in the table costs its fetch. -/
theorem cycleCost_of_not_knownOpcode {op : Byte} (h : ¬ KnownOpcode op) : cycleCost op = 1 := by
  obtain ⟨h2, h5, h9⟩ : op ≠ 0x20 ∧ op ≠ 0xA5 ∧ op ≠ 0xA9 := by simpa only [KnownOpcode, not_or] using h
  rw [cycleCost, if_neg h9, if_neg h5, if_neg h2]

theorem cycleCost_pos (op : Byte) : 0 < cycleCost op := by
  by_cases h : KnownOpcode op
  · obtain rfl | rfl | rfl := h <;> decide
  · rw [cycleCost_of_not_knownOpcode h]
    exact Nat.one_pos

@[simp] theorem State.afterLoad_budget (v : Byte) (cost : Nat) (s : State) :
    (s.afterLoad v cost).budget = s.budget - cost := rfl
@[simp] theorem State.afterCall_budget (s : State) : s.afterCall.budget = s.budget - 6 := rfl

/-- A completed step was let start by its budget and charges the cost of its opcode. -/
theorem budget_of_step_next {s t : State} (h : step s = .next t) :
    s.budget ≠ 0 ∧ t.budget = s.budget - cycleCost (memRead s.pc s) := by
  obtain ⟨hb, ⟨hop, rfl⟩ | ⟨hop, rfl⟩ | ⟨hop, rfl⟩⟩ := step_next_cases h
  · exact ⟨hb, by rw [hop, cycleCost_ldaImm, State.afterLoad_budget]⟩
  · exact ⟨hb, by rw [hop, cycleCost_ldaZp, State.afterLoad_budget]⟩
  · exact ⟨hb, by rw [hop, cycleCost_jsr, State.afterCall_budget]⟩

/-- The same of a step that stops on an unhandled opcode. -/
theorem budget_of_step_unhandled {s t : State} {op : Byte} (h : step s = .fault (.unhandled op t)) :
    s.budget ≠ 0 ∧ t.budget = s.budget - cycleCost (memRead s.pc s) := by
  obtain ⟨hb, rfl, hop, rfl⟩ := (unhandledExactlyOnUnknownOpcode s t op).mp h
  exact ⟨hb, by rw [cycleCost_of_not_knownOpcode hop]⟩

/-- Settles O34: the budget falls by the opcode's cost, which is positive, from a budget that is positive too. -/
theorem stepChargesTheTablesCost : Obligations.StepChargesTheTablesCost := by
  intro s t op h
  obtain ⟨hb, ht⟩ := h.elim budget_of_step_next budget_of_step_unhandled
  refine ⟨?ldaImm, ?ldaZp, ?jsr, ?unhandled, ?decrease⟩
  case ldaImm => intro hop; rw [ht, hop, cycleCost_ldaImm]
  case ldaZp => intro hop; rw [ht, hop, cycleCost_ldaZp]
  case jsr => intro hop; rw [ht, hop, cycleCost_jsr]
  case unhandled => intro hop; rw [ht, cycleCost_of_not_knownOpcode hop]
  case decrease => rw [ht]; exact Nat.sub_lt (Nat.pos_of_ne_zero hb) (cycleCost_pos _)

end Sys2Proof.Machine
end

section
/-!
Decoding and encoding undo each other, on byte lists and in the opcode table's numbering (30_encoding.md R61 to R65).
-/

namespace Sys2Proof.Machine

/-- Decoding the encoding of an instruction, whatever follows it, gives the instruction back. -/
theorem decode_encode_append (i : Instr) (rest : List Byte) : decode (encode i ++ rest) = .ok (i, rest) := by
  cases i with
  | jsr target => exact (decode_jsr _ _ rest).trans (by rw [wordOf_hi8_lo8])
  | ldaZp zp => exact decode_ldaZp zp rest
  | ldaImm imm => exact decode_ldaImm imm rest

/-- Settles O3: no operand is ill formed, so the hypothesis is not needed. -/
theorem decodeOfEncodeIsTheInstruction : Obligations.DecodeOfEncodeIsTheInstruction :=
  fun i rest _ => decode_encode_append i rest

/-- What the one-byte formats accept: one operand byte and the rest. -/
theorem decodeOperands_oneByte_ok {op : Byte} {mk : Byte → Instr} {tail rest : List Byte} {i : Instr}
    (h : decodeOperands op (.oneByte mk) tail = .ok (i, rest)) : ∃ v, tail = v :: rest ∧ i = mk v := by
  cases tail with
  | nil => exact nomatch h
  | cons v tail =>
    obtain ⟨rfl, rfl⟩ := Prod.mk.inj (Except.ok.inj h)
    exact ⟨v, rfl, rfl⟩

/-- What the two-byte format accepts: the low byte, the high byte and the rest. -/
theorem decodeOperands_twoBytes_ok {op : Byte} {mk : Word → Instr} {tail rest : List Byte} {i : Instr}
    (h : decodeOperands op (.twoBytes mk) tail = .ok (i, rest)) :
    ∃ lo hi, tail = lo :: hi :: rest ∧ i = mk (wordOf hi lo) := by
  match tail with
  | [] => exact nomatch h
  | [_] => exact nomatch h
  | lo :: hi :: tail =>
    obtain ⟨rfl, rfl⟩ := Prod.mk.inj (Except.ok.inj h)
    exact ⟨lo, hi, rfl, rfl⟩

/-- Bytes that decode are the encoding of what they decode to, followed by the rest. -/
theorem eq_encode_append_of_decode {bytes rest : List Byte} {i : Instr} (h : decode bytes = .ok (i, rest)) :
    bytes = encode i ++ rest := by
  cases bytes with
  | nil => exact nomatch h
  | cons op tail =>
    obtain ⟨rfl, hrow⟩ | ⟨rfl, hrow⟩ | ⟨rfl, hrow⟩ | ⟨-, -, -, hnone⟩ := decodeOpcode_cases op
    · obtain ⟨imm, rfl, rfl⟩ := decodeOperands_oneByte_ok ((decode_of_entry hrow tail).symm.trans h)
      rfl
    · obtain ⟨zp, rfl, rfl⟩ := decodeOperands_oneByte_ok ((decode_of_entry hrow tail).symm.trans h)
      rfl
    · obtain ⟨lo, hi, rfl, rfl⟩ := decodeOperands_twoBytes_ok ((decode_of_entry hrow tail).symm.trans h)
      simp only [encode, lo8_wordOf, hi8_wordOf, List.cons_append, List.nil_append]
    · exact nomatch (decode_of_unhandled hnone tail).symm.trans h

/-- Settles O4, by the row of the dispatch table that the first byte selects. -/
theorem encodeOfDecodeIsTheBytes : Obligations.EncodeOfDecodeIsTheBytes :=
  fun _ _ _ h => eq_encode_append_of_decode h

/-- The length table's rows, and that it has no others. -/
theorem opcodeLength_cases {op : Byte} {n : Nat} (h : opcodeLength op = some n) :
    (op = 0xA9 ∧ n = 2) ∨ (op = 0xA5 ∧ n = 2) ∨ (op = 0x20 ∧ n = 3) := by
  rw [opcodeLength] at h
  split_ifs at h with h9 h5 h2
  · exact .inl ⟨h9, (Option.some.inj h).symm⟩
  · exact .inr (.inl ⟨h5, (Option.some.inj h).symm⟩)
  · exact .inr (.inr ⟨h2, (Option.some.inj h).symm⟩)

/-- The first byte of an encoding is the opcode, and the table gives it the instruction's length. -/
theorem opcodeLength_of_cons_eq_encode_append {op : Byte} {tail rest : List Byte} {i : Instr}
    (h : op :: tail = encode i ++ rest) : opcodeLength op = some i.length := by
  cases i <;> exact (List.cons.inj h).1 ▸ rfl

/-- An encoding is as long as its instruction says. -/
theorem length_encode (i : Instr) : (encode i).length = i.length := by
  cases i <;> rfl

/-- Settles O5: the bytes are an encoding and the rest; and the rows of the length table are the rows of the decoder. -/
theorem opcodeAloneFixesTheLength : Obligations.OpcodeAloneFixesTheLength := by
  constructor
  · intro op tail rest i h
    have hbytes := eq_encode_append_of_decode h
    refine ⟨opcodeLength_of_cons_eq_encode_append hbytes, ?_⟩
    rw [hbytes, ← length_encode i, List.drop_left]
  · intro op tail n hn hle
    obtain ⟨rfl, rfl⟩ | ⟨rfl, rfl⟩ | ⟨rfl, rfl⟩ := opcodeLength_cases hn
    · obtain ⟨imm, rest, rfl⟩ := List.exists_cons_of_length_pos (by omega : 0 < tail.length)
      exact ⟨_, _, decode_ldaImm imm rest⟩
    · obtain ⟨zp, rest, rfl⟩ := List.exists_cons_of_length_pos (by omega : 0 < tail.length)
      exact ⟨_, _, decode_ldaZp zp rest⟩
    · obtain ⟨lo, tail, rfl⟩ := List.exists_cons_of_length_pos (by omega : 0 < tail.length)
      rw [List.length_cons] at hle
      obtain ⟨hi, rest, rfl⟩ := List.exists_cons_of_length_pos (by omega : 0 < tail.length)
      exact ⟨_, _, decode_jsr lo hi rest⟩

/-- Settles O1: one list of each format, and a byte without a row. -/
theorem decodeReadsOneWordOfEachFormat : Obligations.DecodeReadsOneWordOfEachFormat :=
  ⟨decode_ldaImm 0x42 [], decode_ldaZp 0x10 [], decode_jsr 0x34 0x12 [],
    decode_of_unhandled (decodeOpcode_of_not_knownOpcode (by decide)) [0x42]⟩

/-- The lowest byte of the table's number is the first byte. -/
theorem ofNat_tableNumber_cons (v : Byte) (rest : List Byte) : BitVec.ofNat 8 (tableNumber (v :: rest)) = v := by
  apply BitVec.eq_of_toNat_eq
  have hv := v.isLt
  simp only [tableNumber, BitVec.toNat_ofNat]
  omega

/-- The bits above the first byte are the number of the other bytes. -/
theorem tableNumber_cons_div (v : Byte) (rest : List Byte) : tableNumber (v :: rest) / 256 = tableNumber rest := by
  have hv := v.isLt
  simp only [tableNumber]
  omega

/-- The number of a list of bytes has eight bits for each. -/
theorem tableNumber_lt (bytes : List Byte) : tableNumber bytes < 2 ^ (8 * bytes.length) := by
  induction bytes with
  | nil => exact Nat.one_pos
  | cons v rest ih =>
    have hv := v.isLt
    rw [tableNumber, List.length_cons, Nat.mul_succ, pow_add]
    omega

/-- The bytes read back from the table's number of an encoding: the encoding, then zeros up to three bytes. -/
theorem tableBytes_encode (i : Instr) :
    tableBytes (8 * i.length) (tableNumber (encode i)) = encode i ++ List.replicate (3 - i.length) 0 := by
  have hlt : tableNumber (encode i) < 2 ^ (8 * i.length) := length_encode i ▸ tableNumber_lt (encode i)
  have hdiv : tableNumber (encode i) / 65536 = tableNumber (encode i) / 256 / 256 :=
    (Nat.div_div_eq_div_mul _ 256 256).symm
  rw [tableBytes, Nat.mod_eq_of_lt hlt, hdiv]
  cases i <;> simp only [encode, ofNat_tableNumber_cons, tableNumber_cons_div] <;> rfl

/-- Settles O6: the zeros that fill up the bytes are the rest the decoder leaves. -/
theorem tableNumberDecodesToTheInstruction : Obligations.TableNumberDecodesToTheInstruction := by
  intro i
  rw [decodeTableWord, tableBytes_encode, decode_encode_append]

end Sys2Proof.Machine
end

section
/-!
How a call's iterations end: the execute loop's fuel is always enough, more of it changes nothing, and what every step
keeps holds where the call ends (40_engine.md R93, R94; 60_exceptions.md R131, R139).
-/

namespace Sys2Proof.Machine

/-- The three ends of a step, by the budget and the opcode at PC. -/
theorem step_cases (s : State) :
    (s.budget = 0 ∧ step s = .fault (.exhausted s)) ∨
    (s.budget ≠ 0 ∧ KnownOpcode (memRead s.pc s) ∧ ∃ t, step s = .next t) ∨
    (s.budget ≠ 0 ∧ ¬ KnownOpcode (memRead s.pc s) ∧
      step s = .fault (.unhandled (memRead s.pc s) { s with pc := s.pc + 1, budget := s.budget - 1 })) := by
  by_cases hb : s.budget = 0
  · exact .inl ⟨hb, step_of_no_budget hb⟩
  by_cases hop : KnownOpcode (memRead s.pc s)
  · exact .inr (.inl ⟨hb, hop, exists_step_next_of_knownOpcode hb hop⟩)
  · exact .inr (.inr ⟨hb, hop, step_of_not_knownOpcode hb hop⟩)

/-- Settles O33: each of the three ends is one of the three the statement names. -/
theorem everyStateHasANextStateOrAnOutcome : Obligations.EveryStateHasANextStateOrAnOutcome := by
  intro s
  obtain ⟨-, h⟩ | ⟨-, -, h⟩ | ⟨-, -, h⟩ := step_cases s
  · exact .inr (.inl ⟨s, h⟩)
  · exact .inl h
  · exact .inr (.inr ⟨_, _, h⟩)

/-- Settles O30: the other two ends are no exhausted stop. -/
theorem exhaustedExactlyAtZeroBudget : Obligations.ExhaustedExactlyAtZeroBudget := by
  intro s t
  constructor
  · intro h
    obtain ⟨hb, hs⟩ | ⟨-, -, u, hs⟩ | ⟨-, -, hs⟩ := step_cases s
    · exact ⟨hb, Fault.exhausted.inj (Host.Outcome.fault.inj (h.symm.trans hs))⟩
    · exact nomatch hs.symm.trans h
    · exact nomatch hs.symm.trans h
  · rintro ⟨hb, rfl⟩
    exact step_of_no_budget hb

/-- Settles O32: the other two ends answer no next state. -/
theorem knownOpcodeWithBudgetAlwaysCompletes : Obligations.KnownOpcodeWithBudgetAlwaysCompletes := by
  intro s
  constructor
  · rintro ⟨t, h⟩
    obtain ⟨-, hs⟩ | ⟨hb, hop, -⟩ | ⟨-, -, hs⟩ := step_cases s
    · exact nomatch hs.symm.trans h
    · exact ⟨hb, hop⟩
    · exact nomatch hs.symm.trans h
  · rintro ⟨hb, hop⟩
    exact exists_step_next_of_knownOpcode hb hop

/-- A completed step leaves less budget, so the loop's iterations are bounded (R93). -/
theorem budget_lt_of_step_next {s t : State} (h : step s = .next t) : t.budget < s.budget := by
  obtain ⟨hb, ht⟩ := budget_of_step_next h
  rw [ht]
  exact Nat.sub_lt (Nat.pos_of_ne_zero hb) (cycleCost_pos _)

/-- With one more iteration than its budget the loop ends. -/
theorem exists_runLoop_of_budget_lt {fuel : Nat} {s : State} (h : s.budget < fuel) : ∃ r, runLoop fuel s = some r := by
  induction fuel generalizing s with
  | zero => exact absurd h (Nat.not_lt_zero _)
  | succ fuel ih =>
    obtain ⟨-, hs⟩ | ⟨-, -, t, hs⟩ | ⟨-, -, hs⟩ := step_cases s
    · exact ⟨_, runLoop_of_exhausted hs fuel⟩
    · rw [runLoop_of_next hs]
      exact ih ((budget_lt_of_step_next hs).trans_le (Nat.le_of_lt_succ h))
    · exact ⟨_, runLoop_of_unhandled hs fuel⟩

/-- Fuel beyond what lets the loop end changes nothing: `runLoop` is the loop of R88 (log entry 10). -/
theorem runLoop_succ_of_some {fuel : Nat} {s : State} {r : ExecuteResult} (h : runLoop fuel s = some r) :
    runLoop (fuel + 1) s = some r := by
  induction fuel generalizing s with
  | zero => exact nomatch h
  | succ fuel ih =>
    obtain ⟨-, hs⟩ | ⟨-, -, t, hs⟩ | ⟨-, -, hs⟩ := step_cases s
    · rwa [runLoop_of_exhausted hs] at h ⊢
    · rw [runLoop_of_next hs] at h ⊢
      exact ih h
    · rwa [runLoop_of_unhandled hs] at h ⊢

/-- Any fuel above the budget gives what the least such fuel gives. -/
theorem runLoop_eq_of_budget_lt {fuel : Nat} {s : State} (h : s.budget < fuel) :
    runLoop fuel s = runLoop (s.budget + 1) s := by
  induction fuel, h using Nat.le_induction with
  | base => rfl
  | succ fuel hlt ih =>
    obtain ⟨r, hr⟩ := exists_runLoop_of_budget_lt hlt
    rw [← ih, hr, runLoop_succ_of_some hr]

/-- What every completed step keeps holds in the state whose step ended the loop. -/
theorem exists_last_step_of_runLoop {P : State → Prop} (hkeep : ∀ s t, P s → step s = .next t → P t) {fuel : Nat}
    {s : State} {r : ExecuteResult} (hs : P s) (h : runLoop fuel s = some r) :
    ∃ u, P u ∧ r.remaining = r.final.budget ∧
      ((r.outcome = .exhausted ∧ step u = .fault (.exhausted r.final)) ∨
       ∃ op, r.outcome = .unhandled op ∧ step u = .fault (.unhandled op r.final)) := by
  induction fuel generalizing s with
  | zero => exact nomatch h
  | succ fuel ih =>
    obtain ⟨-, hstep⟩ | ⟨-, -, t, hstep⟩ | ⟨-, -, hstep⟩ := step_cases s
    · obtain rfl := Option.some.inj ((runLoop_of_exhausted hstep fuel).symm.trans h)
      exact ⟨s, hs, rfl, .inl ⟨rfl, hstep⟩⟩
    · exact ih (hkeep s t hs hstep) ((runLoop_of_next hstep fuel).symm.trans h)
    · obtain rfl := Option.some.inj ((runLoop_of_unhandled hstep fuel).symm.trans h)
      exact ⟨s, hs, rfl, .inr ⟨_, rfl, hstep⟩⟩

/-- The last step of a call starts with no more than the call's budget. -/
theorem exists_last_step_of_execute {cycleBudget : Nat} {s : State} {r : ExecuteResult}
    (h : execute cycleBudget s = some r) :
    ∃ u, u.budget ≤ cycleBudget ∧ r.remaining = r.final.budget ∧
      ((r.outcome = .exhausted ∧ step u = .fault (.exhausted r.final)) ∨
       ∃ op, r.outcome = .unhandled op ∧ step u = .fault (.unhandled op r.final)) :=
  exists_last_step_of_runLoop (P := fun u => u.budget ≤ cycleBudget)
    (fun _ _ hu hstep => (budget_lt_of_step_next hstep).le.trans hu) (State.setBudget_budget cycleBudget s).le h

/-- Settles O44: the call's fuel is one more than its budget. -/
theorem everyExecuteCallReturns : Obligations.EveryExecuteCallReturns :=
  fun cycleBudget _ => exists_runLoop_of_budget_lt (Nat.lt_succ_self cycleBudget)

/-- Settles O46: an exhausted stop leaves the state whose budget is 0, an unhandled one charges its fetch. -/
theorem exhaustedCallReportsZeroBudget : Obligations.ExhaustedCallReportsZeroBudget := by
  intro cycleBudget s r h
  obtain ⟨u, hu, hrem, ⟨hout, hstep⟩ | ⟨op, hout, hstep⟩⟩ := exists_last_step_of_execute h
  · obtain ⟨hzero, hfinal⟩ := (exhaustedExactlyAtZeroBudget u r.final).mp hstep
    rw [hrem, hfinal]
    exact ⟨rfl, hu, fun _ => hzero⟩
  · obtain ⟨-, hbudget⟩ := budget_of_step_unhandled hstep
    refine ⟨hrem, ?_, fun hexh => nomatch hout.symm.trans hexh⟩
    rw [hrem, hbudget]
    exact (Nat.sub_le _ _).trans hu

/-- Settles O47: the last step is an unhandled one, which moves PC past its byte and leaves memory. -/
theorem unhandledCallStopsJustPastTheOpcode : Obligations.UnhandledCallStopsJustPastTheOpcode := by
  intro cycleBudget s r op h hout
  obtain ⟨u, hu, hrem, ⟨hexh, -⟩ | ⟨op', hop', hstep⟩⟩ := exists_last_step_of_execute h
  · exact nomatch hout.symm.trans hexh
  · obtain rfl := Terminal.unhandled.inj (hout.symm.trans hop')
    obtain ⟨hb, hop, hunknown, hfinal⟩ := (unhandledExactlyOnUnknownOpcode u r.final op).mp hstep
    rw [hrem, hfinal]
    refine ⟨?byte, hunknown, ?budget⟩
    case byte => rw [hop, BitVec.add_sub_cancel]; rfl
    case budget => exact (Nat.sub_lt (Nat.pos_of_ne_zero hb) Nat.one_pos).trans_le hu

/-- A call with the budget a state holds is the loop from that state. -/
theorem execute_budget_self (s : State) : execute s.budget s = runLoop (s.budget + 1) s := rfl

/-- A call may be cut after its first step. -/
theorem execute_eq_of_step_next {s t : State} (h : step s = .next t) : execute s.budget s = execute t.budget t := by
  rw [execute_budget_self, runLoop_of_next h, runLoop_eq_of_budget_lt (budget_lt_of_step_next h), execute_budget_self]

/-- A call may be cut after any number of steps. -/
theorem execute_eq_of_run {steps : Nat} {s t : State} (h : Host.Core.run Sys2Proof.core steps s = .next t) :
    execute s.budget s = execute t.budget t := by
  induction steps generalizing s with
  | zero => rw [Host.Outcome.next.inj h]
  | succ k ih =>
    obtain ⟨-, hs⟩ | ⟨-, -, u, hs⟩ | ⟨-, -, hs⟩ := step_cases s
    · exact nomatch (core_run_of_fault hs k).symm.trans h
    · rw [execute_eq_of_step_next hs]
      exact ih ((core_run_of_next hs k).symm.trans h)
    · exact nomatch (core_run_of_fault hs k).symm.trans h

/-- Settles O48: the state the run starts from holds the call's budget. -/
theorem executeResumesFromAnyIntermediateState : Obligations.ExecuteResumesFromAnyIntermediateState := by
  intro steps cycleBudget s t h
  exact execute_eq_of_run h

/-- Settles O45: the first iteration stops. -/
theorem executeWithZeroBudgetChangesNothing : Obligations.ExecuteWithZeroBudgetChangesNothing :=
  fun s => runLoop_of_exhausted (step_of_no_budget (State.setBudget_budget 0 s)) 0

end Sys2Proof.Machine
end

section
/-!
The laws of the memory over any number of writes: a read sees the latest write, and the bytes determine the data
(20_memory.md R42, R52, R59).
-/

namespace Sys2Proof.Machine

/-- Any sequence of writes keeps the canonical form. -/
theorem Memory.foldl_write_wf {m : Memory} (h : Memory.wf m = true) (writes : List (Word × Byte)) :
    Memory.wf (writes.foldl (fun m c => Memory.write m c.1 c.2) m) = true := by
  induction writes generalizing m with
  | nil => exact h
  | cons c writes ih => exact ih (Memory.write_wf h c.1 c.2)

/-- Settles O7, by induction from the last write: it is the one read, or it leaves the byte to the writes before it. -/
theorem readReturnsTheLatestWrite : Obligations.ReadReturnsTheLatestWrite := by
  intro m writes addr h
  induction writes using List.reverseRecOn with
  | nil => rfl
  | append_singleton writes c ih =>
    rw [List.foldl_append, List.foldl_cons, List.foldl_nil, List.reverse_append, List.reverse_singleton,
      List.singleton_append]
    by_cases hc : c.1 = addr
    · rw [List.find?_cons_of_pos (p := fun c : Word × Byte => c.1 == addr) (beq_iff_eq.mpr hc), ← hc,
        Memory.read_write_self (Memory.foldl_write_wf h writes)]
    · rw [List.find?_cons_of_neg (p := fun c : Word × Byte => c.1 == addr) (mt beq_iff_eq.mp hc),
        Memory.read_write_other (Ne.symm hc), ih]

/-- The first cell is what is found at its address. -/
theorem Memory.lookup_cons_self (k : Nat) (v : Byte) (m : Memory) : Memory.lookup ((k, v) :: m) k = v :=
  if_pos rfl

/-- Any other address is found in the cells after it. -/
theorem Memory.lookup_cons_other {k j : Nat} (hne : k ≠ j) (v : Byte) (m : Memory) :
    Memory.lookup ((k, v) :: m) j = Memory.lookup m j :=
  if_neg hne

/-- If two memories are found to hold the same bytes, the first listed address of one is not below all of the other's:
the other would hold the unlisted byte there. -/
theorem Memory.not_wfFrom_succ_of_lookup_eq {k : Nat} {v : Byte} {m m' : Memory} (hk : k < Config.memorySize)
    (hv : v ≠ Memory.unlisted)
    (heq : ∀ j < Config.memorySize, Memory.lookup ((k, v) :: m) j = Memory.lookup m' j) :
    ¬ Memory.wfFrom (k + 1) m' = true := fun hm' =>
  hv (((Memory.lookup_cons_self k v m).symm.trans (heq k hk)).trans (Memory.lookup_below hm' k.lt_succ_self))

/-- Canonical memories in which the same bytes are found are the same list of cells. -/
theorem Memory.eq_of_lookup_eq {lo : Nat} {m m' : Memory} (h : Memory.wfFrom lo m = true)
    (h' : Memory.wfFrom lo m' = true) (heq : ∀ j < Config.memorySize, Memory.lookup m j = Memory.lookup m' j) :
    m = m' := by
  induction m generalizing lo m' with
  | nil =>
    cases m' with
    | nil => rfl
    | cons c' m' =>
      obtain ⟨-, hk', hv', -⟩ := Memory.wfFrom_cons.mp h'
      exact absurd rfl (Memory.not_wfFrom_succ_of_lookup_eq hk' hv' fun j hj => (heq j hj).symm)
  | cons c m ih =>
    obtain ⟨k, v⟩ := c
    obtain ⟨-, hk, hv, hm⟩ := Memory.wfFrom_cons.mp h
    cases m' with
    | nil => exact absurd rfl (Memory.not_wfFrom_succ_of_lookup_eq hk hv heq)
    | cons c' m' =>
      obtain ⟨k', v'⟩ := c'
      obtain ⟨-, hk', hv', hm'⟩ := Memory.wfFrom_cons.mp h'
      rcases lt_trichotomy k k' with hlt | rfl | hgt
      · exact absurd (Memory.wfFrom_cons.mpr ⟨hlt, hk', hv', hm'⟩) (Memory.not_wfFrom_succ_of_lookup_eq hk hv heq)
      · have hvv : v = v' := by simpa only [Memory.lookup_cons_self] using heq k hk
        have htail : ∀ j < Config.memorySize, Memory.lookup m j = Memory.lookup m' j := by
          intro j hj
          by_cases hkj : k = j
          · rw [Memory.lookup_below hm (by omega), Memory.lookup_below hm' (by omega)]
          · simpa only [Memory.lookup_cons_other hkj] using heq j hj
        rw [hvv, ih hm hm' htail]
      · exact absurd (Memory.wfFrom_cons.mpr ⟨hgt, hk, hv, hm⟩)
          (Memory.not_wfFrom_succ_of_lookup_eq hk' hv' fun j hj => (heq j hj).symm)

/-- Settles O8: every listed address is a 16-bit one. -/
theorem memoriesWithEqualBytesAreEqual : Obligations.MemoriesWithEqualBytesAreEqual := by
  intro m m' h h' heq
  refine Memory.eq_of_lookup_eq h h' fun j hj => ?_
  have hj' : (BitVec.ofNat 16 j).toNat = j := Nat.mod_eq_of_lt hj
  simpa only [Memory.read, hj'] using heq (BitVec.ofNat 16 j)

/-- Settles O9: both memories are canonical and read 0x00 everywhere, so they are equal data. -/
theorem zeroFillOfEveryAddressIsInitialize : Obligations.ZeroFillOfEveryAddressIsInitialize := by
  intro m addrs h hall
  have hfold : addrs.foldl (fun m addr => Memory.write m addr 0x00) m =
      (addrs.map fun addr => (addr, (0x00 : Byte))).foldl (fun m c => Memory.write m c.1 c.2) m := by
    rw [List.foldl_map]
  rw [hfold]
  refine memoriesWithEqualBytesAreEqual _ _ (Memory.foldl_write_wf h _) (Memory.initialize_wf m) fun addr => ?_
  rw [readReturnsTheLatestWrite _ _ _ h, Memory.read_initialize]
  split
  next c hc =>
    obtain ⟨_, -, rfl⟩ := List.mem_map.mp (List.mem_reverse.mp (List.mem_of_find?_eq_some hc))
    rfl
  next hnone =>
    have hmem := List.mem_reverse.mpr (List.mem_map_of_mem (f := fun addr => (addr, (0x00 : Byte))) (hall addr))
    exact absurd (beq_self_eq_true addr) (List.find?_eq_none.mp hnone _ hmem)

/-- Settles O11: the fetch reads the two bytes where the write put them, and they make up the word again. -/
theorem writtenWordIsFetchedUnchanged : Obligations.WrittenWordIsFetchedUnchanged := by
  intro addr w s h
  have hlow := memRead_writeWord_low h addr w
  have hhigh := memRead_writeWord_high h addr w
  refine ⟨hlow, hhigh, ?_⟩
  calc (fetchWord ((writeWord addr w s).setPc addr)).1
      = wordOf (memRead (addr + 1) (writeWord addr w s)) (memRead addr (writeWord addr w s)) := by
        rw [fetchWord_spec]; rfl
    _ = w := by rw [hlow, hhigh, wordOf_hi8_lo8]

end Sys2Proof.Machine
end

section
/-!
Charging, and what each instruction does on the state its fetch left (40_engine.md R80, R81; 41_load.md R110 to R112;
42_subroutine.md R120, R121, R123).
-/

namespace Sys2Proof.Machine

/-- Settles O12: subtraction on `Nat` is the saturating one of R80. -/
theorem chargesSaturateAndCompose : Obligations.ChargesSaturateAndCompose := by
  intro m n s
  refine ⟨?saturates, rfl, ?composes⟩
  case saturates => simp only [charge_spec]; omega
  case composes => simp only [charge_spec, Nat.sub_sub]

/-- Settles O17: the load flags as conditions on numbers. -/
theorem ldaImmediateLoadsItsOperand : Obligations.LdaImmediateLoadsItsOperand := by
  intro imm s
  rw [exec_ldaImm, loadAccumulator_spec, loadZ_eq_decide, loadN_eq_decide]

/-- Settles O18: the same load, of the byte at the address, once the read is charged. -/
theorem ldaZeroPageLoadsTheByte : Obligations.LdaZeroPageLoadsTheByte := by
  intro zp s
  rw [exec_ldaZp, loadAccumulator_spec, loadZ_eq_decide, loadN_eq_decide, charge_spec]

/-- Settles O19: the two cycles of the word write and the one of the call add up. -/
theorem jsrStoresPcMinusOneAndJumps : Obligations.JsrStoresPcMinusOneAndJumps := by
  intro target s
  rw [exec_jsr, writeWord_spec, charge_spec]
  rfl

/-- Settles O20: the results of the two loads, which name no other field. -/
theorem loadsChangeOnlyAccumulatorAndItsFlags : Obligations.LoadsChangeOnlyAccumulatorAndItsFlags := by
  rintro i s t (⟨zp, rfl⟩ | ⟨imm, rfl⟩) h
  · obtain rfl := Host.Outcome.next.inj ((ldaZeroPageLoadsTheByte zp s).symm.trans h)
    exact ⟨rfl, rfl, rfl, rfl, rfl, rfl, rfl, rfl, fun _ => rfl⟩
  · obtain rfl := Host.Outcome.next.inj ((ldaImmediateLoadsItsOperand imm s).symm.trans h)
    exact ⟨rfl, rfl, rfl, rfl, rfl, rfl, rfl, rfl, fun _ => rfl⟩

/-- After a call memory reads as after the write of the return address. -/
theorem memRead_of_exec_jsr {target : Word} {s t : State} (h : exec (.jsr target) s = .next t) (b : Word) :
    memRead b t = memRead b (writeWord (stackAddr s) (s.pc - 1) s) := by
  obtain rfl := Host.Outcome.next.inj ((jsrStoresPcMinusOneAndJumps target s).symm.trans h)
  rfl

/-- Settles O21: the result of the call names no other field, and the word write has its frame. -/
theorem jsrChangesOnlySpAndTheStackWord : Obligations.JsrChangesOnlySpAndTheStackWord := by
  intro target s t h
  have hmem : ∀ addr : Word, stackAddr s = addr → ∀ b : Word, b ≠ addr → b ≠ addr + 1 → memRead b t = memRead b s := by
    rintro addr rfl b hlow hhigh
    rw [memRead_of_exec_jsr h, memRead_writeWord_other hlow hhigh]
  obtain rfl := Host.Outcome.next.inj ((jsrStoresPcMinusOneAndJumps target s).symm.trans h)
  exact ⟨rfl, rfl, rfl, rfl, rfl, rfl, rfl, rfl, rfl, rfl, rfl, hmem⟩

/-- Settles O22: the two bytes are the remainder and the quotient by 256 of the return address. -/
theorem stackWordReadsBackAsReturnAddress : Obligations.StackWordReadsBackAsReturnAddress := by
  intro target s t hinv h
  rw [memRead_of_exec_jsr h, memRead_of_exec_jsr h, memRead_writeWord_low hinv, memRead_writeWord_high hinv, lo8_toNat,
    hi8_toNat, Nat.mod_add_div, BitVec.toNat_sub, Nat.add_comm]
  rfl

/-- Settles O24: the load reads the stack word's low byte. -/
theorem loadReadsBackACallsStackWord : Obligations.LoadReadsBackACallsStackWord := by
  intro target zp s t hinv hzp h
  refine ⟨_, ldaZeroPageLoadsTheByte zp t, ?_⟩
  calc memRead (zeroPageAddr zp) t
      = memRead (stackAddr s) (writeWord (stackAddr s) (s.pc - 1) s) := by rw [← hzp, memRead_of_exec_jsr h]
    _ = lo8 (s.pc - 1) := memRead_writeWord_low hinv _ _

end Sys2Proof.Machine
end

section
/-!
What every step keeps and what no step depends on; a step as the instruction its bytes decode to, and an instruction
placed for the next step (10_state.md section 5; 40_engine.md R95; log entries 3, 4).
-/

namespace Sys2Proof.Machine

/-- Settles O35: a load leaves the memory, a call writes a word. -/
theorem stepKeepsMemoryCanonical : Obligations.StepKeepsMemoryCanonical := by
  intro s t hinv h
  obtain ⟨-, v, cost, rfl⟩ | ⟨-, rfl⟩ := step_next_load_or_call h
  · exact hinv
  · exact State.afterCall_inv hinv

@[simp] theorem State.afterLoad_withBystanders (v : Byte) (cost : Nat) (u : Bystanders) (s : State) :
    (s.withBystanders u).afterLoad v cost = (s.afterLoad v cost).withBystanders u := rfl
@[simp] theorem State.afterCall_withBystanders (u : Bystanders) (s : State) :
    (s.withBystanders u).afterCall = s.afterCall.withBystanders u := rfl

/-- Settles O38: budget and opcode, which decide how a step ends, are the same with the other values, and in each end
the state left commutes with the replacement. -/
theorem bystandersHaveNoInfluence : Obligations.BystandersHaveNoInfluence := by
  intro u s
  obtain ⟨hb, hs⟩ | ⟨hb, hjsr | hldaZp | hldaImm, -⟩ | ⟨hb, hop, hs⟩ := step_cases s
  · rw [step_of_no_budget (s := s.withBystanders u) hb, hs]; rfl
  · rw [step_of_jsr (s := s.withBystanders u) hb hjsr, step_of_jsr hb hjsr, State.afterCall_withBystanders, mapOutcome]
  · rw [step_of_ldaZp (s := s.withBystanders u) hb hldaZp, step_of_ldaZp hb hldaZp, State.afterLoad_withBystanders]; rfl
  · rw [step_of_ldaImm (s := s.withBystanders u) hb hldaImm, step_of_ldaImm hb hldaImm, State.afterLoad_withBystanders]
    rfl
  · rw [step_of_not_knownOpcode (s := s.withBystanders u) hb hop, hs]; rfl

/-- Settles O39: the fetch is at the call's stack address. -/
theorem callIntoItsStackWordFetchesTheStoredByte : Obligations.CallIntoItsStackWordFetchesTheStoredByte := by
  intro s t hinv h hop hpc
  calc (fetchByte t).1
      = memRead (stackAddr s) t := by rw [fetchByte_spec, hpc]; rfl
    _ = lo8 (s.pc + 2) := by rw [eq_afterCall_of_step hop h, memRead_afterCall_low hinv]

/-- The first three bytes from PC on, as reads of the state. -/
theorem bytesAt_pc_three (s : State) :
    bytesAt s.mem s.pc 3 = [memRead s.pc s, memRead (s.pc + 1) s, memRead (s.pc + 1 + 1) s] := rfl

/-- A step whose bytes at PC begin with an instruction's encoding is that instruction after its fetch. -/
theorem step_of_bytesAt_eq_encode_append {s : State} {i : Instr} {rest : List Byte} (hb : s.budget ≠ 0)
    (h : bytesAt s.mem s.pc 3 = encode i ++ rest) :
    step s = exec i { s with pc := s.pc + BitVec.ofNat 16 i.length, budget := s.budget - i.length } := by
  rw [bytesAt_pc_three] at h
  cases i with
  | jsr target =>
    obtain ⟨hop, hlo, hhi, -⟩ : _ ∧ _ ∧ _ ∧ _ := by simpa only [encode, List.cons_append, List.cons.injEq] using h
    have hword : wordOf (memRead (s.pc + 1 + 1) s) (memRead (s.pc + 1) s) = target := by rw [hlo, hhi, wordOf_hi8_lo8]
    rw [step_of_entry hb (hop ▸ decodeOpcode_jsr), fetchOperands_twoBytes, fetchByte_spec, fetchWord_spec, ← hword]
    simp only [BitVec.add_assoc, Nat.sub_sub]
    rfl
  | ldaZp zp =>
    obtain ⟨hop, hzp, -⟩ : _ ∧ _ ∧ _ := by simpa only [encode, List.cons_append, List.cons.injEq] using h
    rw [step_of_entry hb (hop ▸ decodeOpcode_ldaZp), fetchOperands_oneByte, fetchByte_spec, fetchByte_spec, ← hzp]
    simp only [pc_add_one_add_one, Nat.sub_sub]
    rfl
  | ldaImm imm =>
    obtain ⟨hop, himm, -⟩ : _ ∧ _ ∧ _ := by simpa only [encode, List.cons_append, List.cons.injEq] using h
    rw [step_of_entry hb (hop ▸ decodeOpcode_ldaImm), fetchOperands_oneByte, fetchByte_spec, fetchByte_spec, ← himm]
    simp only [pc_add_one_add_one, Nat.sub_sub]
    rfl

/-- Settles O25: bytes that decode are an encoding and a rest. -/
theorem stepRunsTheDecodedInstruction : Obligations.StepRunsTheDecodedInstruction := by
  intro s i rest hb h
  exact step_of_bytesAt_eq_encode_append hb (eq_encode_append_of_decode h)

/-- Placing bytes writes the memory only. -/
theorem placeBytes_spec (bytes : List Byte) (addr : Word) (s : State) :
    placeBytes bytes addr s = { s with mem := (placeBytes bytes addr s).mem } := by
  induction bytes generalizing addr s with
  | nil => rfl
  | cons v rest ih => exact ih (addr + 1) (memWrite addr v s)

/-- Placing bytes leaves every address but theirs. -/
theorem memRead_placeBytes_other {b : Word} (bytes : List Byte) (addr : Word) (s : State)
    (h : ∀ k < bytes.length, b ≠ addr + BitVec.ofNat 16 k) : memRead b (placeBytes bytes addr s) = memRead b s := by
  induction bytes generalizing addr s with
  | nil => rfl
  | cons v rest ih =>
    have hfirst : b ≠ addr := by simpa using h 0 (Nat.succ_pos _)
    have hrest : ∀ k < rest.length, b ≠ addr + 1 + BitVec.ofNat 16 k := by
      intro k hk
      have hnext := h (k + 1) (Nat.succ_lt_succ hk)
      rwa [Nat.add_comm, BitVec.ofNat_add, ← BitVec.add_assoc] at hnext
    exact (ih (addr + 1) (memWrite addr v s) hrest).trans (Memory.read_write_other hfirst v)

/-- Placed bytes are read back, if they do not wrap around onto themselves. -/
theorem bytesAt_placeBytes (bytes : List Byte) (addr : Word) {s : State} (hinv : Inv s)
    (hlen : bytes.length ≤ Config.memorySize) :
    bytesAt (placeBytes bytes addr s).mem addr bytes.length = bytes := by
  induction bytes generalizing addr s with
  | nil => rfl
  | cons v rest ih =>
    have hlen' : rest.length + 1 ≤ 65536 := hlen
    have hne : ∀ k < rest.length, addr ≠ addr + 1 + BitVec.ofNat 16 k := by
      intro k hk
      bv_omega
    have hfirst : memRead addr (placeBytes (v :: rest) addr s) = v :=
      (memRead_placeBytes_other rest (addr + 1) (memWrite addr v s) hne).trans (Memory.read_write_self hinv addr v)
    exact congrArg₂ List.cons hfirst (ih (addr + 1) (memWrite_wf hinv addr v) (Nat.le_of_succ_le hlen))

/-- The longest instruction's number of bytes is placed, whatever the instruction. -/
theorem length_tableBytes (nbits w : Nat) : (tableBytes nbits w).length = 3 := rfl

/-- What placing an instruction changes: memory as its bytes are placed, and a budget of 0 (log entry 3). -/
theorem State.withFetchWord_spec (s : State) (nbits w : Nat) :
    s.withFetchWord nbits w =
      { s with
        mem := (placeBytes (tableBytes nbits w) s.pc s).mem
        budget := if s.budget = 0 then 6 else s.budget } := by
  rw [State.withFetchWord, placeInstr, placeBytes_spec]
  by_cases hb : s.budget = 0
  · simp only [hb, if_true]; rfl
  · simp only [hb, if_false]

/-- The budget of a placed instruction lets the next step start. -/
theorem placedBudget_ne_zero (n : Nat) : (if n = 0 then 6 else n) ≠ 0 := by
  split
  · decide
  · assumption

/-- Settles O26: the three bytes at PC are the instruction's encoding and zeros, and the budget is not 0. -/
theorem placedInstructionIsTheOneTheStepRuns : Obligations.PlacedInstructionIsTheOneTheStepRuns := by
  rintro i s p hinv rfl
  have hspec := s.withFetchWord_spec (8 * i.length) (tableNumber (encode i))
  refine ⟨?runs, by rw [hspec]⟩
  rw [hspec]
  refine step_of_bytesAt_eq_encode_append (rest := List.replicate (3 - i.length) 0) ?budget ?bytes
  case budget => exact placedBudget_ne_zero s.budget
  case bytes => exact (bytesAt_placeBytes _ s.pc hinv (by rw [length_tableBytes]; decide)).trans (tableBytes_encode i)

end Sys2Proof.Machine
end

section
/-!
The host's operations, and what holds in every state that they bring about (10_state.md R23, R26, R28; 40_engine.md
R105; 70_reset_and_hazards.md R150, R152).
-/

namespace Sys2Proof.Machine

/-- Settles O36: the reset state's memory is that of `initialize()`. -/
theorem resetMemoryIsCanonical : Obligations.ResetMemoryIsCanonical :=
  Memory.initialize_wf State.reset.mem

/-- The host's reset leaves of the prior state its budget field only (log entry 1). -/
theorem hostReset_spec (s : State) : hostReset s = { State.reset with budget := s.budget } := rfl

/-- The reset values are among those of R23, R26 and R28. -/
theorem hostReset_values (s : State) : ReachableValues (hostReset s) where
  x := rfl
  y := rfl
  c := rfl
  d := rfl
  b := rfl
  v := rfl
  sp := (by decide : Config.resetSp.toNat % 2 = 0)

/-- So are those at construction. -/
theorem constructed_values : ReachableValues State.constructed where
  x := rfl
  y := rfl
  c := rfl
  d := rfl
  b := rfl
  v := rfl
  sp := by decide

/-- Settles O42: a second reset meets a state that only differs from the reset state in the budget field. -/
theorem resetIsIdempotentFromAnyState : Obligations.ResetIsIdempotentFromAnyState := by
  intro s
  refine ⟨hostReset_spec s, ?_⟩
  rw [hostReset_spec (hostReset s), hostReset_spec s]

/-- Settles O43: `hostApply` of a setter is that setter's update. -/
theorem settersWriteOneField : Obligations.SettersWriteOneField :=
  fun _ _ _ => ⟨rfl, rfl⟩

/-- The values of R23, R26 and R28 are those of the bystanders and of SP. -/
theorem ReachableValues.of_bystanders_eq {s t : State} (h : ReachableValues s) (hby : t.bystanders = s.bystanders)
    (hsp : t.sp.toNat % 2 = 0) : ReachableValues t where
  x := (congrArg Bystanders.x hby).trans h.x
  y := (congrArg Bystanders.y hby).trans h.y
  c := (congrArg Bystanders.flagC hby).trans h.c
  d := (congrArg Bystanders.flagD hby).trans h.d
  b := (congrArg Bystanders.flagB hby).trans h.b
  v := (congrArg Bystanders.flagV hby).trans h.v
  sp := hsp

/-- SP stays even when it grows by 2, where it wraps too (R26). -/
theorem add_two_toNat_even {sp : Word} (h : sp.toNat % 2 = 0) : (sp + 2).toNat % 2 = 0 := by
  bv_omega

/-- A completed step keeps the values: it writes no bystander, and SP only to add 2. -/
theorem reachableValues_of_step_next {s t : State} (hs : ReachableValues s) (h : step s = .next t) :
    ReachableValues t := by
  obtain ⟨-, v, cost, rfl⟩ | ⟨-, rfl⟩ := step_next_load_or_call h
  · exact hs.of_bystanders_eq (s.afterLoad_bystanders v cost) hs.sp
  · exact hs.of_bystanders_eq s.afterCall_bystanders (add_two_toNat_even hs.sp)

/-- So does an execute call: its last step, which stops it, writes PC and the budget at most. -/
theorem values_and_inv_of_execute {cycleBudget : Nat} {s : State} {r : ExecuteResult}
    (hs : ReachableValues s ∧ Inv s) (h : execute cycleBudget s = some r) :
    ReachableValues r.final ∧ Inv r.final := by
  have hstart : ReachableValues (s.setBudget cycleBudget) ∧ Inv (s.setBudget cycleBudget) :=
    ⟨hs.1.of_bystanders_eq rfl hs.1.sp, hs.2⟩
  obtain ⟨u, ⟨hvalues, hinv⟩, -, ⟨-, hstep⟩ | ⟨op, -, hstep⟩⟩ :=
    exists_last_step_of_runLoop (P := fun u => ReachableValues u ∧ Inv u)
      (fun u t hu hnext => ⟨reachableValues_of_step_next hu.1 hnext, stepKeepsMemoryCanonical u t hu.2 hnext⟩) hstart h
  · obtain ⟨-, hfinal⟩ := (exhaustedExactlyAtZeroBudget u r.final).mp hstep
    exact hfinal ▸ ⟨hvalues, hinv⟩
  · obtain ⟨-, -, -, hfinal⟩ := (unhandledExactlyOnUnknownOpcode u r.final op).mp hstep
    rw [hfinal]
    exact ⟨hvalues.of_bystanders_eq rfl hvalues.sp, hinv⟩

/-- After an execute call the engine is in the state its result leaves. -/
theorem hostApply_execute {cycleBudget : Nat} {s : State} {r : ExecuteResult} (h : execute cycleBudget s = some r) :
    hostApply (.execute cycleBudget) s = r.final := by
  simp only [hostApply, h]

/-- Every host operation keeps the values and the memory's canonical form. -/
theorem values_and_inv_of_hostApply (op : HostOp) {s : State} (hs : ReachableValues s ∧ Inv s) :
    ReachableValues (hostApply op s) ∧ Inv (hostApply op s) := by
  obtain ⟨hvalues, hinv⟩ := hs
  cases op with
  | reset => exact ⟨hostReset_values s, hostReset_wf s⟩
  | setPc v => exact ⟨hvalues.of_bystanders_eq rfl hvalues.sp, hinv⟩
  | setA v => exact ⟨hvalues.of_bystanders_eq rfl hvalues.sp, hinv⟩
  | get g => exact ⟨hvalues, hinv⟩
  | readByte addr => exact ⟨hvalues, hinv⟩
  | writeByte addr v => exact ⟨hvalues.of_bystanders_eq rfl hvalues.sp, hostWriteByte_wf hinv addr v⟩
  | execute cycleBudget =>
    obtain ⟨r, hr⟩ := everyExecuteCallReturns cycleBudget s
    rw [hostApply_execute hr]
    exact values_and_inv_of_execute ⟨hvalues, hinv⟩ hr

/-- Settles O49, by induction on the host's operations. -/
theorem reachableStatesKeepTheirValues : Obligations.ReachableStatesKeepTheirValues := by
  intro s hs
  induction hs with
  | constructed => exact ⟨constructed_values, rfl⟩
  | apply op s _ ih => exact values_and_inv_of_hostApply op ih

end Sys2Proof.Machine
end
